-- ==== Sys2Proof/Word.lean ====
section
/-! DEFINITION. The words that cross the ports of CORE, as plain bit vectors, and the index type.
Bit 0 is the least significant bit (00_scope.md R10). -/

namespace Sys2Proof

/-- A nibble code: bit 3 the sign, bits 2:0 the magnitude (30_encoding.md R60). -/
abbrev Code := BitVec 4

/-- The magnitude bits of a nibble code (30_encoding.md R60). -/
abbrev Mag := BitVec 3

/-- A packed byte: the first code in bits 7:4, the second in bits 3:0 (30_encoding.md R61). -/
abbrev Byte := BitVec 8

/-- A 32-bit field of a command or response word (30_encoding.md R63, R68). -/
abbrev Field32 := BitVec 32

/-- A command word, `CW_BITS = 43` (00_scope.md R7, 30_encoding.md R63). -/
abbrev CommandWord := BitVec 43

/-- A response word, `RW_BITS = 67` (00_scope.md R7, 30_encoding.md R68). -/
abbrev ResponseWord := BitVec 67

/-- A step index, an integer in [0, 88] (00_scope.md R5: `INDEX_MIN`, `INDEX_MAX`, `STEP_ENTRIES`;
10_state.md R31 lets a model state the register's type as its range). -/
abbrev StepIndex := Fin 89

end Sys2Proof
end

