-- ==== Sys2Proof/Config.lean ====
section
/-! DEFINITION. What one built device fixes and the spec leaves open: the step-size table and the two
saturation bounds (00_scope.md R6). The model's device uses free constants, forced into the constraints
of R6 and otherwise unknown. The index adjustment table is fixed by the spec and stands in
Machine/StepModel.lean. -/

namespace Sys2Proof

/-- The parameters of 00_scope.md R6. -/
structure Config where
  /-- `STEP_TABLE`, the 89 step sizes (20_memory.md R41). -/
  stepTable : StepIndex → Nat
  /-- `PV_MIN`, the lower saturation bound of a predicted value. -/
  pvMin : Int
  /-- `PV_MAX`, the upper saturation bound of a predicted value. -/
  pvMax : Int

/-- The constraints of 00_scope.md R6 on the parameters. -/
def Config.Admissible (cfg : Config) : Prop :=
  (∀ i, 1 ≤ cfg.stepTable i ∧ cfg.stepTable i ≤ 2147483647) ∧
  (∀ i j : StepIndex, i ≤ j → cfg.stepTable i ≤ cfg.stepTable j) ∧
  (-2147483648 ≤ cfg.pvMin ∧ cfg.pvMin ≤ 0) ∧ (0 ≤ cfg.pvMax ∧ cfg.pvMax ≤ 2147483647)

/-- Free numbers from which the device's step-size table is made. DESIGN CHOICE (log entry 1), safe: the
spec lists no value (R41, 92_eei_decisions.md D2), and nothing can be proved of these. -/
opaque Config.freeStep : Nat → Nat

/-- A free number from which the device's `PV_MIN` is made. DESIGN CHOICE (log entry 2), safe. -/
opaque Config.freePvMin : Int

/-- A free number from which the device's `PV_MAX` is made. DESIGN CHOICE (log entry 2), safe. -/
opaque Config.freePvMax : Int

/-- A number forced into [1, 2^31 - 1], the range of a step size (00_scope.md R6). -/
def Config.clipStep (x : Nat) : Nat := max 1 (min x 2147483647)

/-- The largest of the clipped numbers `f 0`, ..., `f i`: a non-decreasing sequence of step sizes. -/
def Config.runningMax (f : Nat → Nat) : Nat → Nat
  | 0 => clipStep (f 0)
  | i + 1 => max (runningMax f i) (clipStep (f (i + 1)))

/-- The admissible configuration made from free numbers. Numbers that meet 00_scope.md R6 already are
left as they are, so every admissible configuration arises (`Config.constrain_of_admissible`). -/
def Config.constrain (f : Nat → Nat) (lo hi : Int) : Config where
  stepTable i := runningMax f i.val
  pvMin := max (-2147483648) (min lo 0)
  pvMax := max 0 (min hi 2147483647)

/-- The configuration of the modelled device: free, within the constraints of 00_scope.md R6. -/
def Config.free : Config := Config.constrain Config.freeStep Config.freePvMin Config.freePvMax

end Sys2Proof
end

