-- ==== Sys2Proof/Syntax.lean ====
section
/-! DEFINITION. The instructions: one constructor for each row of the opcode table. The operands of the
ten commands are the integers that 30_encoding.md R77 writes after the mnemonic; fields that a command
ignores (R73) are no operands. The ranges of the operands are in WellFormed.lean. -/

namespace Sys2Proof

/-- The ten commands, the six unassigned command numbers and the sixteen nibble codes. -/
inductive Instr where
  /-- `ENC.LDST pv, idx`: load the encoder's Codec State (41_encoder.md R113). -/
  | encLdst (pv : Int) (idx : Nat)
  /-- `ENC.RDST`: read the encoder's Codec State (41_encoder.md R114). -/
  | encRdst
  /-- `ENC.SMP s`: encode one sample (41_encoder.md R111). -/
  | encSmp (sample : Int)
  /-- `ENC.END`: end of a call of encode, flush the pending nibble (41_encoder.md R112). -/
  | encEnd
  /-- `LUT.STEP idx`: read one entry of the step-size table (40_step_size_model.md R98). -/
  | lutStep (idx : Nat)
  /-- `LUT.ADJ c`: read one entry of the index adjustment table (40_step_size_model.md R99). -/
  | lutAdj (c : Nat)
  /-- `DEC.LDST pv, idx`: load the decoder's Codec State (42_decoder.md R133). -/
  | decLdst (pv : Int) (idx : Nat)
  /-- `DEC.RDST`: read the decoder's Codec State (42_decoder.md R134). -/
  | decRdst
  /-- `DEC.PAIR b`: decode both codes of one byte (42_decoder.md R131). -/
  | decPair (b : Nat)
  /-- `DEC.HIGH b`: decode only the high code of one byte (42_decoder.md R132). -/
  | decHigh (b : Nat)
  /-- Command number 0x0, unassigned (30_encoding.md R71). -/
  | unassigned0
  /-- Command number 0x5, unassigned (30_encoding.md R71). -/
  | unassigned5
  /-- Command number 0x8, unassigned (30_encoding.md R71). -/
  | unassigned8
  /-- Command number 0xD, unassigned (30_encoding.md R71). -/
  | unassignedD
  /-- Command number 0xE, unassigned (30_encoding.md R71). -/
  | unassignedE
  /-- Command number 0xF, unassigned (30_encoding.md R71). -/
  | unassignedF
  /-- Nibble code 0 (42_decoder.md R140). -/
  | code0
  /-- Nibble code 1 (42_decoder.md R141). -/
  | code1
  /-- Nibble code 2 (42_decoder.md R142). -/
  | code2
  /-- Nibble code 3 (42_decoder.md R143). -/
  | code3
  /-- Nibble code 4 (42_decoder.md R144). -/
  | code4
  /-- Nibble code 5 (42_decoder.md R145). -/
  | code5
  /-- Nibble code 6 (42_decoder.md R146). -/
  | code6
  /-- Nibble code 7 (42_decoder.md R147). -/
  | code7
  /-- Nibble code 8 (42_decoder.md R148). -/
  | code8
  /-- Nibble code 9 (42_decoder.md R149). -/
  | code9
  /-- Nibble code 10 (42_decoder.md R150). -/
  | code10
  /-- Nibble code 11 (42_decoder.md R151). -/
  | code11
  /-- Nibble code 12 (42_decoder.md R152). -/
  | code12
  /-- Nibble code 13 (42_decoder.md R153). -/
  | code13
  /-- Nibble code 14 (42_decoder.md R154). -/
  | code14
  /-- Nibble code 15 (42_decoder.md R155). -/
  | code15
  deriving DecidableEq, Repr

/-- An encoding, in one of the two formats of the opcode table. -/
inductive Encoded where
  /-- Format `CW43`: a 43-bit command word (30_encoding.md R63). -/
  | commandWord (cw : CommandWord)
  /-- Format `NIBBLE`: a 4-bit nibble code (30_encoding.md R60). -/
  | nibble (c : Code)
  deriving DecidableEq, Repr

end Sys2Proof
end

