-- ==== Sys2Proof/WellFormed.lean ====
section
/-! DEFINITION. Which operands the encoding can carry: the operand ranges of 30_encoding.md R77. -/

namespace Sys2Proof

/-- `v` is a signed 32-bit integer, in [-2^31, 2^31 - 1] (00_scope.md R5, 30_encoding.md R77). -/
def isS32 (v : Int) : Bool := decide (-2147483648 ≤ v) && decide (v ≤ 2147483647)

/-- The operands lie in the ranges of the table of 30_encoding.md R77. -/
def Instr.wellFormed : Instr → Bool
  | .encLdst pv idx => isS32 pv && decide (idx ≤ 127)
  | .encRdst => true
  | .encSmp sample => isS32 sample
  | .encEnd => true
  | .lutStep idx => decide (idx ≤ 127)
  | .lutAdj c => decide (c ≤ 15)
  | .decLdst pv idx => isS32 pv && decide (idx ≤ 127)
  | .decRdst => true
  | .decPair b => decide (b ≤ 255)
  | .decHigh b => decide (b ≤ 255)
  | .unassigned0 => true
  | .unassigned5 => true
  | .unassigned8 => true
  | .unassignedD => true
  | .unassignedE => true
  | .unassignedF => true
  | .code0 => true
  | .code1 => true
  | .code2 => true
  | .code3 => true
  | .code4 => true
  | .code5 => true
  | .code6 => true
  | .code7 => true
  | .code8 => true
  | .code9 => true
  | .code10 => true
  | .code11 => true
  | .code12 => true
  | .code13 => true
  | .code14 => true
  | .code15 => true

end Sys2Proof
end

