-- ==== Sys2Proof/Decode.lean ====
section
/-! DEFINITION. Decoding and encoding of the two formats (30_encoding.md): command words (R63 to R67, R71,
R73, R76, R77) and nibble codes (R60). Decoding is total on every word of a format; a number that is too
wide for its format is rejected by name. -/

namespace Sys2Proof

/-- `to_s32(u)`: a 32-bit field read as two's complement (00_scope.md R11, 30_encoding.md R65). -/
def toS32 (u : Field32) : Int := u.toInt

/-- `from_s32(v)`: `v mod 2^32` as a 32-bit field (00_scope.md R11). -/
def fromS32 (v : Int) : Field32 := BitVec.ofInt 32 v

/-- Field `op`, bits 42:39 of a command word (30_encoding.md R63). -/
def opField (cw : CommandWord) : BitVec 4 := cw.extractLsb' 39 4

/-- Field `idx`, bits 38:32 of a command word (30_encoding.md R63). -/
def idxField (cw : CommandWord) : BitVec 7 := cw.extractLsb' 32 7

/-- Field `data`, bits 31:0 of a command word (30_encoding.md R63). -/
def dataField (cw : CommandWord) : Field32 := cw.extractLsb' 0 32

/-- The byte of a decoder command, bits 7:0 of a command word (30_encoding.md R67). -/
def byteField (cw : CommandWord) : Byte := cw.extractLsb' 0 8

/-- The code of `LUT.ADJ`, bits 3:0 of a command word (30_encoding.md R67). -/
def codeField (cw : CommandWord) : Code := cw.extractLsb' 0 4

/-- The command that a command word stands for (30_encoding.md R64, R76). The last arm is command
number 0xF, the only one left of the sixteen. -/
def decodeCommand (cw : CommandWord) : Instr :=
  match (opField cw).toNat with
  | 0x0 => .unassigned0
  | 0x1 => .encLdst (toS32 (dataField cw)) (idxField cw).toNat
  | 0x2 => .encRdst
  | 0x3 => .encSmp (toS32 (dataField cw))
  | 0x4 => .encEnd
  | 0x5 => .unassigned5
  | 0x6 => .lutStep (idxField cw).toNat
  | 0x7 => .lutAdj (codeField cw).toNat
  | 0x8 => .unassigned8
  | 0x9 => .decLdst (toS32 (dataField cw)) (idxField cw).toNat
  | 0xA => .decRdst
  | 0xB => .decPair (byteField cw).toNat
  | 0xC => .decHigh (byteField cw).toNat
  | 0xD => .unassignedD
  | 0xE => .unassignedE
  | _ => .unassignedF

/-- The row of the opcode table that a nibble code stands for (30_encoding.md R60, R72). The last arm is
code 15, the only one left of the sixteen. -/
def decodeNibble (c : Code) : Instr :=
  match c.toNat with
  | 0 => .code0
  | 1 => .code1
  | 2 => .code2
  | 3 => .code3
  | 4 => .code4
  | 5 => .code5
  | 6 => .code6
  | 7 => .code7
  | 8 => .code8
  | 9 => .code9
  | 10 => .code10
  | 11 => .code11
  | 12 => .code12
  | 13 => .code13
  | 14 => .code14
  | _ => .code15

/-- Decoding of an encoding of either format. -/
def decode : Encoded → Instr
  | .commandWord cw => decodeCommand cw
  | .nibble c => decodeNibble c

/-- Why a number is no encoding. -/
inductive DecodeError where
  /-- A command word has 43 bits (30_encoding.md R63, R75). -/
  | commandWordTooWide
  /-- A nibble code has 4 bits (30_encoding.md R60). -/
  | nibbleTooWide
  deriving DecidableEq, Repr

/-- The encoding whose bits are the number `w`, in the format told by the width in bits of a row of the
opcode table: one byte or less for `NIBBLE` (4 bits), more for `CW43` (43 bits). -/
def encodedOfBits (nbits w : Nat) : Except DecodeError Encoded :=
  if nbits ≤ 8 then
    if w < 16 then .ok (.nibble (BitVec.ofNat 4 w)) else .error .nibbleTooWide
  else
    if w < 8796093022208 then .ok (.commandWord (BitVec.ofNat 43 w)) else .error .commandWordTooWide

/-- The instruction of a number of a given width, or the reason why there is none. -/
def decodeBits (nbits w : Nat) : Except DecodeError Instr :=
  match encodedOfBits nbits w with
  | .ok e => .ok (decode e)
  | .error err => .error err

/-- The instruction read from the bits `w` of a row of the opcode table that is `nbits` wide. -/
def decodeTableWord (nbits w : Nat) : Option Instr :=
  match decodeBits nbits w with
  | .ok i => some i
  | .error _ => none

/-- A command word from its fields, `op * 2^39 + idx * 2^32 + data` (30_encoding.md R63). -/
def commandWordOf (op : BitVec 4) (idx : BitVec 7) (data : Field32) : CommandWord := op ++ idx ++ data

/-- The encoding that the assembler gives an instruction, ignored fields 0 (30_encoding.md R73, R77). -/
def encode : Instr → Encoded
  | .encLdst pv idx => .commandWord (commandWordOf 0x1 (BitVec.ofNat 7 idx) (fromS32 pv))
  | .encRdst => .commandWord (commandWordOf 0x2 0 0)
  | .encSmp sample => .commandWord (commandWordOf 0x3 0 (fromS32 sample))
  | .encEnd => .commandWord (commandWordOf 0x4 0 0)
  | .lutStep idx => .commandWord (commandWordOf 0x6 (BitVec.ofNat 7 idx) 0)
  | .lutAdj c => .commandWord (commandWordOf 0x7 0 (BitVec.ofNat 32 c))
  | .decLdst pv idx => .commandWord (commandWordOf 0x9 (BitVec.ofNat 7 idx) (fromS32 pv))
  | .decRdst => .commandWord (commandWordOf 0xA 0 0)
  | .decPair b => .commandWord (commandWordOf 0xB 0 (BitVec.ofNat 32 b))
  | .decHigh b => .commandWord (commandWordOf 0xC 0 (BitVec.ofNat 32 b))
  | .unassigned0 => .commandWord (commandWordOf 0x0 0 0)
  | .unassigned5 => .commandWord (commandWordOf 0x5 0 0)
  | .unassigned8 => .commandWord (commandWordOf 0x8 0 0)
  | .unassignedD => .commandWord (commandWordOf 0xD 0 0)
  | .unassignedE => .commandWord (commandWordOf 0xE 0 0)
  | .unassignedF => .commandWord (commandWordOf 0xF 0 0)
  | .code0 => .nibble 0x0
  | .code1 => .nibble 0x1
  | .code2 => .nibble 0x2
  | .code3 => .nibble 0x3
  | .code4 => .nibble 0x4
  | .code5 => .nibble 0x5
  | .code6 => .nibble 0x6
  | .code7 => .nibble 0x7
  | .code8 => .nibble 0x8
  | .code9 => .nibble 0x9
  | .code10 => .nibble 0xA
  | .code11 => .nibble 0xB
  | .code12 => .nibble 0xC
  | .code13 => .nibble 0xD
  | .code14 => .nibble 0xE
  | .code15 => .nibble 0xF

/-- The row of the opcode table that an instruction belongs to: its fixed bits, as (mask, match), on the
number that its encoding is. -/
def tableRow : Instr → Nat × Nat
  | .unassigned0 => (0x78000000000, 0x00000000000)
  | .encLdst _ _ => (0x78000000000, 0x08000000000)
  | .encRdst => (0x78000000000, 0x10000000000)
  | .encSmp _ => (0x78000000000, 0x18000000000)
  | .encEnd => (0x78000000000, 0x20000000000)
  | .unassigned5 => (0x78000000000, 0x28000000000)
  | .lutStep _ => (0x78000000000, 0x30000000000)
  | .lutAdj _ => (0x78000000000, 0x38000000000)
  | .unassigned8 => (0x78000000000, 0x40000000000)
  | .decLdst _ _ => (0x78000000000, 0x48000000000)
  | .decRdst => (0x78000000000, 0x50000000000)
  | .decPair _ => (0x78000000000, 0x58000000000)
  | .decHigh _ => (0x78000000000, 0x60000000000)
  | .unassignedD => (0x78000000000, 0x68000000000)
  | .unassignedE => (0x78000000000, 0x70000000000)
  | .unassignedF => (0x78000000000, 0x78000000000)
  | .code0 => (0xF, 0x0)
  | .code1 => (0xF, 0x1)
  | .code2 => (0xF, 0x2)
  | .code3 => (0xF, 0x3)
  | .code4 => (0xF, 0x4)
  | .code5 => (0xF, 0x5)
  | .code6 => (0xF, 0x6)
  | .code7 => (0xF, 0x7)
  | .code8 => (0xF, 0x8)
  | .code9 => (0xF, 0x9)
  | .code10 => (0xF, 0xA)
  | .code11 => (0xF, 0xB)
  | .code12 => (0xF, 0xC)
  | .code13 => (0xF, 0xD)
  | .code14 => (0xF, 0xE)
  | .code15 => (0xF, 0xF)

/-- The number that an encoding is, bit 0 the least significant (00_scope.md R10). -/
def encodedBits : Encoded → Nat
  | .commandWord cw => cw.toNat
  | .nibble c => c.toNat

end Sys2Proof
end

