-- ==== Sys2Proof/Machine/Operands.lean ====
section
/-! DEFINITION. Operand assembly and result fields (30_encoding.md R65 to R67, 00_scope.md R10, R11). -/

namespace Sys2Proof.Machine

/-- `clamp(v, lo, hi)` (00_scope.md R12). -/
def clamp (v lo hi : Int) : Int := if v < lo then lo else if v > hi then hi else v

/-- An index operand, `min(idx, 88)`: 89 and above are replaced by 88 (30_encoding.md R66). -/
def indexOperand (idx : Nat) : StepIndex := ⟨min idx 88, by omega⟩

/-- The first code of a byte operand, `b[7:4]` (30_encoding.md R67). -/
def highCode (b : Nat) : Code := BitVec.ofNat 4 (b / 16)

/-- The second code of a byte operand, `b[3:0]` (30_encoding.md R67). -/
def lowCode (b : Nat) : Code := BitVec.ofNat 4 b

/-- The code operand of `LUT.ADJ`, `cw[3:0]` (30_encoding.md R67). -/
def codeOperand (c : Nat) : Code := BitVec.ofNat 4 c

/-- The sign of a code, `code[3]` (30_encoding.md R60, R67). -/
def signOf (code : Code) : Bool := code.getLsbD 3

/-- The magnitude of a code, `code[2:0]` (30_encoding.md R60, R67). -/
def magOf (code : Code) : Mag := code.extractLsb' 0 3

/-- `delta | (sign << 3)`: a code from its magnitude and sign (41_encoder.md R110, 30_encoding.md R60). -/
def codeOf (delta : Mag) (sign : Bool) : Code := BitVec.ofBool sign ++ delta

/-- `{first, second} = first * 16 + second`: a packed byte (30_encoding.md R61, 20_memory.md R46). -/
def packByte (first second : Code) : Byte := first ++ second

/-- `zext_32` of a byte (00_scope.md R11). -/
def zextByte (b : Byte) : Field32 := b.setWidth 32

/-- `zext_32` of a step index (00_scope.md R11). -/
def zextIndex (i : StepIndex) : Field32 := BitVec.ofNat 32 i.val

/-- `zext_32` of a step size, a number below 2^31 (00_scope.md R11, 40_step_size_model.md R98). -/
def zextStep (step : Nat) : Field32 := BitVec.ofNat 32 step

/-- `sext_32` of a small signed integer (00_scope.md R11, 40_step_size_model.md R99). -/
def sext32 (v : Int) : Field32 := fromS32 v

end Sys2Proof.Machine
end

