-- ==== Sys2Proof/Machine/State.lean ====
section
/-! DEFINITION. The state of CORE: the six registers of 10_state.md R20, and the two ports of the block as
plain lists. There is no writable memory, no program counter, no flag and no other register (R30, R32,
R34, R35; 20_memory.md R40). -/

namespace Sys2Proof.Machine

/-- The registers of the encoder unit (10_state.md R20). -/
structure EncUnit where
  /-- `enc.pv`, 32 bits signed: the predicted value of the encoder (R21). -/
  pv : Field32
  /-- `enc.idx`, in [0, 88]: the step index of the encoder (R22). -/
  idx : StepIndex
  /-- `enc.phase`: true (1) when a code waits in `hold` for its partner (R23). -/
  phase : Bool
  /-- `enc.hold`: the pending nibble, the first code of a pair (R24). -/
  hold : Code
  deriving DecidableEq, Repr

/-- The registers of the decoder unit (10_state.md R20). -/
structure DecUnit where
  /-- `dec.pv`, 32 bits signed: the predicted value of the decoder (R25). -/
  pv : Field32
  /-- `dec.idx`, in [0, 88]: the step index of the decoder (R26). -/
  idx : StepIndex
  deriving DecidableEq, Repr

/-- The fields of a response word (30_encoding.md R68). -/
structure Response where
  /-- Bit 66: the command number was assigned and the command was performed. -/
  ok : Bool
  /-- Bits 65:64: how many data fields carry a result. -/
  n : BitVec 2
  /-- Bits 63:32: the second result, or 0. -/
  d1 : Field32
  /-- Bits 31:0: the first result, or 0. -/
  d0 : Field32
  deriving DecidableEq, Repr

/-- One item that the host presents (70_reset_and_hazards.md R233). -/
inductive HostInput where
  /-- The reset event, which may occur between two commands (70_reset_and_hazards.md R220). -/
  | reset
  /-- A command word on the command port (30_encoding.md R63), or one bare nibble code: the block itself
  receives codes only inside the byte of `DEC.PAIR` and `DEC.HIGH`, and the bare code is the model's item for
  the NIBBLE rows of the opcode table (DESIGN CHOICE, log entry 4, safe). -/
  | present (e : Encoded)
  deriving DecidableEq, Repr

/-- Everything the spec gives the machine, and its two ports. -/
structure State where
  /-- The encoder unit's registers. -/
  enc : EncUnit
  /-- The decoder unit's registers. -/
  dec : DecUnit
  /-- The command port: what the host has yet to present, the next item first (00_scope.md R16: the command
  stream is the program; the model's own field, log entry 3). -/
  input : List HostInput
  /-- The response port: the responses returned so far, oldest first (70_reset_and_hazards.md R232; the
  model's own field, log entry 3). -/
  responses : List Response
  deriving DecidableEq, Repr

/-- Why CORE stops with a fault: never. "The core raises no exception" (60_exceptions.md R200), and R214 (a)
says "fault: none", so this type has no constructor and no meaning can raise one (safe: nothing that the
spec lets go on is stopped). -/
inductive Fault where
  deriving DecidableEq, Repr

/-- Why the model gives an instruction no meaning. -/
inductive Refusal where
  /-- Raised only by an arm of `exec` for an instruction that has no meaning yet, under its mnemonic of the
  opcode table. Safe: the model stops where the hardware goes on. No arm raises it at present. -/
  | notModelled (mnemonic : String)
  deriving DecidableEq, Repr

/-- The encoder unit after reset: all registers 0 (10_state.md R33). -/
def EncUnit.reset : EncUnit where
  pv := 0
  idx := 0
  phase := false
  hold := 0

/-- The decoder unit after reset: all registers 0 (10_state.md R33). -/
def DecUnit.reset : DecUnit where
  pv := 0
  idx := 0

/-- The machine right after reset: the six registers are 0 (10_state.md R33), nothing has been presented and
nothing answered (DESIGN CHOICE for the model's two port fields, log entry 3, safe). -/
def State.reset : State where
  enc := EncUnit.reset
  dec := DecUnit.reset
  input := []
  responses := []

end Sys2Proof.Machine
end

