-- ==== Sys2Proof/Machine/Ops.lean ====
section
/-! DEFINITION. The named operations on the state: register access (10_state.md R20, R29), the response port
(30_encoding.md R68, R70), the reset event (70_reset_and_hazards.md R220) and the refusal of an unassigned
command number (60_exceptions.md R201), which is the one thing the block has in place of an exception: it
takes no exception and returns from none (R200, R204, R205). -/

namespace Sys2Proof.Machine

/-- The parameters of the modelled device (00_scope.md R6): free, within the constraints of that rule. -/
def device : Config := Config.free

/-- What an executed instruction answers. -/
abbrev Outcome := Host.Outcome State Fault Refusal

/-- `enc.pv <- pv` and `enc.idx <- idx`; `enc.phase` and `enc.hold` stay (41_encoder.md R113). -/
def State.writeEnc (s : State) (pv : Int) (idx : StepIndex) : State :=
  { s with enc := { s.enc with pv := fromS32 pv, idx := idx } }

/-- `enc.phase <- phase` and `enc.hold <- hold` (10_state.md R23, R24). -/
def State.writePending (s : State) (phase : Bool) (hold : Code) : State :=
  { s with enc := { s.enc with phase := phase, hold := hold } }

/-- `dec.pv <- pv` and `dec.idx <- idx` (42_decoder.md R133). -/
def State.writeDec (s : State) (pv : Int) (idx : StepIndex) : State :=
  { s with dec := { pv := fromS32 pv, idx := idx } }

/-- The predicted value of the encoder as an integer (10_state.md R21). -/
def State.encPv (s : State) : Int := toS32 s.enc.pv

/-- The predicted value of the decoder as an integer (10_state.md R25). -/
def State.decPv (s : State) : Int := toS32 s.dec.pv

/-- `respond(ok, n, d0, d1)`: the response of the current command (00_scope.md R15, 30_encoding.md R68). -/
def State.respond (s : State) (r : Response) : State := { s with responses := s.responses ++ [r] }

/-- The response of a command with no result: `ok = 1`, `n = 0` (30_encoding.md R70). -/
def respNone : Response where
  ok := true
  n := 0
  d1 := 0
  d0 := 0

/-- The response of a command with one result: `ok = 1`, `n = 1` (30_encoding.md R70). -/
def respOne (d0 : Field32) : Response where
  ok := true
  n := 1
  d1 := 0
  d0 := d0

/-- The response of a command with two results: `ok = 1`, `n = 2` (30_encoding.md R70). -/
def respTwo (d0 d1 : Field32) : Response where
  ok := true
  n := 2
  d1 := d1
  d0 := d0

/-- The response to an unassigned command number: all zero (30_encoding.md R71). -/
def respUnassigned : Response where
  ok := false
  n := 0
  d1 := 0
  d0 := 0

/-- The 67-bit response word, `ok * 2^66 + n * 2^64 + d1 * 2^32 + d0` (30_encoding.md R68). -/
def responseWord (r : Response) : ResponseWord := BitVec.ofBool r.ok ++ r.n ++ r.d1 ++ r.d0

/-- The refusal of an unassigned command number: no register changes, the response is all zero, and the
machine goes on (30_encoding.md R71, 60_exceptions.md R201; log entry 6). -/
def refuseCommand (s : State) : State := s.respond respUnassigned

/-- The reset event: all six registers 0, no response, a pending nibble discarded (70_reset_and_hazards.md
R220). The ports keep what has been answered and what has yet to be presented. -/
def resetEvent (s : State) : State := { s with enc := EncUnit.reset, dec := DecUnit.reset }

end Sys2Proof.Machine
end

