-- ==== Sys2Proof/Machine/StepModel.lean ====
section
/-! DEFINITION. The step-size model and the shared pure functions of 40_step_size_model.md (R90 to R97), over
exact integers and for any configuration. -/

namespace Sys2Proof.Machine

/-- `StepLut(i)` (40_step_size_model.md R90). -/
def stepLut (cfg : Config) (i : StepIndex) : Nat := cfg.stepTable i

/-- `ADJ_TABLE` (20_memory.md R42). -/
def adjTable : Vector Int 16 := #v[-1, -1, -1, -1, 2, 4, 6, 8, -1, -1, -1, -1, 2, 4, 6, 8]

/-- `AdjLut(c)` (40_step_size_model.md R91). -/
def adjLut (c : Code) : Int := adjTable[c.toNat]'c.isLt

/-- The working values of `quantize` (40_step_size_model.md R92). -/
structure Quantized where
  /-- The magnitude code, `delta`. -/
  delta : Mag
  /-- The reconstruction delta, `vpdiff`. -/
  vpdiff : Nat
  deriving DecidableEq, Repr

/-- `quantize(d, step)`: three shift-and-compare tests, the last without a subtraction
(40_step_size_model.md R92). -/
def quantize (d step : Nat) : Quantized :=
  let top := decide (d ≥ step)
  let d1 := if top then d - step else d
  let s1 := step >>> 1
  let middle := decide (d1 ≥ s1)
  let d2 := if middle then d1 - s1 else d1
  let s2 := s1 >>> 1
  let bottom := decide (d2 ≥ s2)
  { delta := (if top then 4 else 0) ||| (if middle then 2 else 0) ||| (if bottom then 1 else 0)
    vpdiff := (step >>> 3) + (if top then step else 0) + (if middle then s1 else 0)
      + (if bottom then s2 else 0) }

/-- `reconstruct(mag, step)` (40_step_size_model.md R93). -/
def reconstruct (mag : Mag) (step : Nat) : Nat :=
  (step >>> 3) + (if mag.getLsbD 2 then step else 0) + (if mag.getLsbD 1 then step >>> 1 else 0)
    + (if mag.getLsbD 0 then step >>> 2 else 0)

/-- `update_pred(pv, sign, vpdiff)`: exact, then saturating (40_step_size_model.md R95). -/
def updatePred (cfg : Config) (pv : Int) (sign : Bool) (vpdiff : Nat) : Int :=
  clamp (if sign then pv - vpdiff else pv + vpdiff) cfg.pvMin cfg.pvMax

/-- `clamp(i, 0, 88)` as a step index (40_step_size_model.md R96). -/
def clampIndex (i : Int) : StepIndex := indexOperand (clamp i 0 88).toNat

/-- `update_index(idx, code)` (40_step_size_model.md R96). -/
def updateIndex (idx : StepIndex) (code : Code) : StepIndex := clampIndex (idx.val + adjLut code)

end Sys2Proof.Machine
end

