-- ==== Sys2Proof/Machine/Decoder.lean ====
section
/-! DEFINITION. The decoder unit: the per-code step (42_decoder.md R130) and the commands `DEC.PAIR`,
`DEC.HIGH`, `DEC.LDST`, `DEC.RDST` (R131 to R134). -/

namespace Sys2Proof.Machine

/-- What one decode step gives: the new Codec State and the sample (42_decoder.md R130). -/
structure DecResult where
  /-- The new predicted value, `pv'`. -/
  pv : Int
  /-- The new step index, `idx'`. -/
  idx : StepIndex
  /-- The emitted sample. -/
  sample : Int
  deriving DecidableEq, Repr

/-- `dec_step(pv, idx, code)`, reconstructing with the step size of the index before the code
(42_decoder.md R130, 90_conflicts.md C6). -/
def decStep (cfg : Config) (pv : Int) (idx : StepIndex) (code : Code) : DecResult :=
  let step := stepLut cfg idx
  let idx' := updateIndex idx code
  let vpdiff := reconstruct (magOf code) step
  let pv' := updatePred cfg pv (signOf code) vpdiff
  { pv := pv', idx := idx', sample := pv' }

/-- One code decoded on the decoder's registers, its sample the one result (42_decoder.md R132). -/
def decodeOne (cfg : Config) (code : Code) (s : State) : State :=
  let r := decStep cfg s.decPv s.dec.idx code
  (s.writeDec r.pv r.idx).respond (respOne (fromS32 r.sample))

/-- `DEC.PAIR` on a device with parameters `cfg`: the second step sees what the first wrote
(42_decoder.md R131). -/
def decPair (cfg : Config) (b : Nat) (s : State) : State :=
  let r0 := decStep cfg s.decPv s.dec.idx (highCode b)
  let r1 := decStep cfg r0.pv r0.idx (lowCode b)
  (s.writeDec r1.pv r1.idx).respond (respTwo (fromS32 r0.sample) (fromS32 r1.sample))

/-- `DEC.HIGH` on a device with parameters `cfg` (42_decoder.md R132). -/
def decHigh (cfg : Config) (b : Nat) (s : State) : State := decodeOne cfg (highCode b) s

/-- `DEC.LDST` on a device with parameters `cfg` (42_decoder.md R133). -/
def decLdst (cfg : Config) (pv : Int) (idx : Nat) (s : State) : State :=
  (s.writeDec (clamp pv cfg.pvMin cfg.pvMax) (indexOperand idx)).respond respNone

/-- `DEC.RDST` (42_decoder.md R134). -/
def decRdst (s : State) : State := s.respond (respTwo (fromS32 s.decPv) (zextIndex s.dec.idx))

/-- The meaning of `DEC.LDST pv, idx`. -/
def execDecLdst (pv : Int) (idx : Nat) (s : State) : Outcome := .next (decLdst device pv idx s)

/-- The meaning of `DEC.RDST`. -/
def execDecRdst (s : State) : Outcome := .next (decRdst s)

/-- The meaning of `DEC.PAIR b`. -/
def execDecPair (b : Nat) (s : State) : Outcome := .next (decPair device b s)

/-- The meaning of `DEC.HIGH b`. -/
def execDecHigh (b : Nat) (s : State) : Outcome := .next (decHigh device b s)

end Sys2Proof.Machine
end

