-- ==== Sys2Proof/Machine/Codes.lean ====
section
/-! DEFINITION. The sixteen nibble codes (42_decoder.md R140 to R155): each is `dec_step` (R130) specialised to one
code, on the decoder's registers. A bare code answers as `DEC.HIGH` with that code in the high nibble does
(DESIGN CHOICE, log entry 4). -/

namespace Sys2Proof.Machine

/-- The meaning of nibble code 0 (42_decoder.md R140). -/
def execCode0 (s : State) : Outcome := .next (decodeOne device 0x0 s)

/-- The meaning of nibble code 1 (42_decoder.md R141). -/
def execCode1 (s : State) : Outcome := .next (decodeOne device 0x1 s)

/-- The meaning of nibble code 2 (42_decoder.md R142). -/
def execCode2 (s : State) : Outcome := .next (decodeOne device 0x2 s)

/-- The meaning of nibble code 3 (42_decoder.md R143). -/
def execCode3 (s : State) : Outcome := .next (decodeOne device 0x3 s)

/-- The meaning of nibble code 4 (42_decoder.md R144). -/
def execCode4 (s : State) : Outcome := .next (decodeOne device 0x4 s)

/-- The meaning of nibble code 5 (42_decoder.md R145). -/
def execCode5 (s : State) : Outcome := .next (decodeOne device 0x5 s)

/-- The meaning of nibble code 6 (42_decoder.md R146). -/
def execCode6 (s : State) : Outcome := .next (decodeOne device 0x6 s)

/-- The meaning of nibble code 7 (42_decoder.md R147). -/
def execCode7 (s : State) : Outcome := .next (decodeOne device 0x7 s)

/-- The meaning of nibble code 8 (42_decoder.md R148). -/
def execCode8 (s : State) : Outcome := .next (decodeOne device 0x8 s)

/-- The meaning of nibble code 9 (42_decoder.md R149). -/
def execCode9 (s : State) : Outcome := .next (decodeOne device 0x9 s)

/-- The meaning of nibble code 10 (42_decoder.md R150). -/
def execCode10 (s : State) : Outcome := .next (decodeOne device 0xA s)

/-- The meaning of nibble code 11 (42_decoder.md R151). -/
def execCode11 (s : State) : Outcome := .next (decodeOne device 0xB s)

/-- The meaning of nibble code 12 (42_decoder.md R152). -/
def execCode12 (s : State) : Outcome := .next (decodeOne device 0xC s)

/-- The meaning of nibble code 13 (42_decoder.md R153). -/
def execCode13 (s : State) : Outcome := .next (decodeOne device 0xD s)

/-- The meaning of nibble code 14 (42_decoder.md R154). -/
def execCode14 (s : State) : Outcome := .next (decodeOne device 0xE s)

/-- The meaning of nibble code 15 (42_decoder.md R155). -/
def execCode15 (s : State) : Outcome := .next (decodeOne device 0xF s)

end Sys2Proof.Machine
end

