-- ==== Sys2Proof/Machine/Flags.lean ====
section
/-! DEFINITION. The one-bit values of the block. It has no flags and no condition codes (10_state.md R32);
what it has is the sign of a difference (41_encoder.md R110), and `enc.phase`, which says to which half of a
byte the next code goes (10_state.md R23, R24). -/

namespace Sys2Proof.Machine

/-- `sign = 1` exactly when the difference is negative (41_encoder.md R110). -/
def signOfDiff (diff : Int) : Bool := decide (diff < 0)

/-- A new code of the encoder: with no code pending it is held and nothing is emitted, with one pending the
pair is emitted as a byte (41_encoder.md R111). -/
def emitCode (s : State) (code : Code) : State :=
  if s.enc.phase then
    (s.writePending false 0).respond (respOne (zextByte (packByte s.enc.hold code)))
  else
    (s.writePending true code).respond respNone

/-- The end of a call of encode: a pending code is emitted with low nibble 0 (41_encoder.md R112). -/
def flushCode (s : State) : State :=
  if s.enc.phase then
    (s.writePending false 0).respond (respOne (zextByte (packByte s.enc.hold 0)))
  else
    s.respond respNone

end Sys2Proof.Machine
end

