-- ==== Sys2Proof/Machine/Encoder.lean ====
section
/-! DEFINITION. The encoder unit: the per-sample step (41_encoder.md R110) and the commands `ENC.SMP`,
`ENC.END`, `ENC.LDST`, `ENC.RDST` (R111 to R114). -/

namespace Sys2Proof.Machine

/-- What one encode step gives: the new Codec State and the code (41_encoder.md R110). -/
structure EncResult where
  /-- The new predicted value, `pv'`. -/
  pv : Int
  /-- The new step index, `idx'`. -/
  idx : StepIndex
  /-- The nibble code of the sample. -/
  code : Code
  deriving DecidableEq, Repr

/-- `enc_step(pv, idx, sample)`, with the step size of the index before the sample (41_encoder.md R110,
R115). -/
def encStep (cfg : Config) (pv : Int) (idx : StepIndex) (sample : Int) : EncResult :=
  let step := stepLut cfg idx
  let diff := sample - pv
  let sign := signOfDiff diff
  let q := quantize diff.natAbs step
  let code := codeOf q.delta sign
  { pv := updatePred cfg pv sign q.vpdiff, idx := updateIndex idx code, code := code }

/-- `ENC.SMP` on a device with parameters `cfg` (41_encoder.md R111). -/
def encSmp (cfg : Config) (sample : Int) (s : State) : State :=
  let r := encStep cfg s.encPv s.enc.idx sample
  emitCode (s.writeEnc r.pv r.idx) r.code

/-- `ENC.LDST` on a device with parameters `cfg` (41_encoder.md R113). -/
def encLdst (cfg : Config) (pv : Int) (idx : Nat) (s : State) : State :=
  (s.writeEnc (clamp pv cfg.pvMin cfg.pvMax) (indexOperand idx)).respond respNone

/-- `ENC.RDST` (41_encoder.md R114). -/
def encRdst (s : State) : State := s.respond (respTwo (fromS32 s.encPv) (zextIndex s.enc.idx))

/-- The meaning of `ENC.LDST pv, idx`. -/
def execEncLdst (pv : Int) (idx : Nat) (s : State) : Outcome := .next (encLdst device pv idx s)

/-- The meaning of `ENC.RDST`. -/
def execEncRdst (s : State) : Outcome := .next (encRdst s)

/-- The meaning of `ENC.SMP s`. -/
def execEncSmp (sample : Int) (s : State) : Outcome := .next (encSmp device sample s)

/-- The meaning of `ENC.END` (41_encoder.md R112). -/
def execEncEnd (s : State) : Outcome := .next (flushCode s)

end Sys2Proof.Machine
end

