-- ==== Sys2Proof/Machine/Lut.lean ====
section
/-! DEFINITION. The table-read commands `LUT.STEP` and `LUT.ADJ` (40_step_size_model.md R98, R99). -/

namespace Sys2Proof.Machine

/-- `LUT.STEP` on a device with parameters `cfg` (40_step_size_model.md R98). -/
def lutStep (cfg : Config) (idx : Nat) (s : State) : State :=
  s.respond (respOne (zextStep (stepLut cfg (indexOperand idx))))

/-- `LUT.ADJ` (40_step_size_model.md R99). -/
def lutAdj (c : Nat) (s : State) : State := s.respond (respOne (sext32 (adjLut (codeOperand c))))

/-- The meaning of `LUT.STEP idx`. -/
def execLutStep (idx : Nat) (s : State) : Outcome := .next (lutStep device idx s)

/-- The meaning of `LUT.ADJ c`. -/
def execLutAdj (c : Nat) (s : State) : Outcome := .next (lutAdj c s)

end Sys2Proof.Machine
end

