-- ==== Sys2Proof/Machine/Unassigned.lean ====
section
/-! DEFINITION. The six unassigned command numbers (30_encoding.md R71, 60_exceptions.md R201): answered with
`ok = 0`, no register changed, and the machine goes on (log entry 6). -/

namespace Sys2Proof.Machine

/-- The meaning of command number 0x0. -/
def execUnassigned0 (s : State) : Outcome := .next (refuseCommand s)

/-- The meaning of command number 0x5. -/
def execUnassigned5 (s : State) : Outcome := .next (refuseCommand s)

/-- The meaning of command number 0x8. -/
def execUnassigned8 (s : State) : Outcome := .next (refuseCommand s)

/-- The meaning of command number 0xD. -/
def execUnassignedD (s : State) : Outcome := .next (refuseCommand s)

/-- The meaning of command number 0xE. -/
def execUnassignedE (s : State) : Outcome := .next (refuseCommand s)

/-- The meaning of command number 0xF. -/
def execUnassignedF (s : State) : Outcome := .next (refuseCommand s)

end Sys2Proof.Machine
end

