-- ==== Sys2Proof/Machine/Dispatch.lean ====
section
/-! DEFINITION. What each instruction does: one arm for each constructor, one direct call of its meaning. -/

namespace Sys2Proof.Machine

def exec (i : Instr) (s : State) : Host.Outcome State Fault Refusal :=
  match i with
  | .encLdst pv idx => Sys2Proof.Machine.execEncLdst pv idx s
  | .encRdst => Sys2Proof.Machine.execEncRdst s
  | .encSmp sample => Sys2Proof.Machine.execEncSmp sample s
  | .encEnd => Sys2Proof.Machine.execEncEnd s
  | .lutStep idx => Sys2Proof.Machine.execLutStep idx s
  | .lutAdj c => Sys2Proof.Machine.execLutAdj c s
  | .decLdst pv idx => Sys2Proof.Machine.execDecLdst pv idx s
  | .decRdst => Sys2Proof.Machine.execDecRdst s
  | .decPair b => Sys2Proof.Machine.execDecPair b s
  | .decHigh b => Sys2Proof.Machine.execDecHigh b s
  | .unassigned0 => Sys2Proof.Machine.execUnassigned0 s
  | .unassigned5 => Sys2Proof.Machine.execUnassigned5 s
  | .unassigned8 => Sys2Proof.Machine.execUnassigned8 s
  | .unassignedD => Sys2Proof.Machine.execUnassignedD s
  | .unassignedE => Sys2Proof.Machine.execUnassignedE s
  | .unassignedF => Sys2Proof.Machine.execUnassignedF s
  | .code0 => Sys2Proof.Machine.execCode0 s
  | .code1 => Sys2Proof.Machine.execCode1 s
  | .code2 => Sys2Proof.Machine.execCode2 s
  | .code3 => Sys2Proof.Machine.execCode3 s
  | .code4 => Sys2Proof.Machine.execCode4 s
  | .code5 => Sys2Proof.Machine.execCode5 s
  | .code6 => Sys2Proof.Machine.execCode6 s
  | .code7 => Sys2Proof.Machine.execCode7 s
  | .code8 => Sys2Proof.Machine.execCode8 s
  | .code9 => Sys2Proof.Machine.execCode9 s
  | .code10 => Sys2Proof.Machine.execCode10 s
  | .code11 => Sys2Proof.Machine.execCode11 s
  | .code12 => Sys2Proof.Machine.execCode12 s
  | .code13 => Sys2Proof.Machine.execCode13 s
  | .code14 => Sys2Proof.Machine.execCode14 s
  | .code15 => Sys2Proof.Machine.execCode15 s

end Sys2Proof.Machine
end

