-- ==== Sys2Proof/Machine/Step.lean ====
section
/-! DEFINITION. One step of the machine: the next item on the command port is taken and performed whole
(00_scope.md R8, 20_memory.md R50, R52). There is no program counter and no fetch (10_state.md R30). -/

namespace Sys2Proof.Machine

/-- One step. With nothing presented the block is idle and keeps its registers (60_exceptions.md R213, log
entry 7); a reset event is a step of its own (70_reset_and_hazards.md R220); an encoding is decoded and
executed. -/
def step (s : State) : Host.Outcome State Fault Refusal :=
  match s.input with
  | [] => .next s
  | .reset :: rest => .next (resetEvent { s with input := rest })
  | .present e :: rest => exec (decode e) { s with input := rest }

/-- `s` with the encoding whose bits are `w` presented next, ahead of all that is still to come. A number
that is too wide for its format is no word of the port, and then nothing is presented. -/
def State.withFetchWord (s : State) (nbits w : Nat) : State :=
  match encodedOfBits nbits w with
  | .ok e => { s with input := .present e :: s.input }
  | .error _ => s

end Sys2Proof.Machine
end

