-- ==== Sys2Proof/Laws/StepModel.lean ====
section
/-! SUPPORT. The small lemmas of operand assembly and of the step-size model. -/

namespace Sys2Proof.Machine

/-- A signed 32-bit integer survives being written to a field and read back (00_scope.md R11). -/
theorem toS32_fromS32 {v : Int} (h1 : -2147483648 ≤ v) (h2 : v ≤ 2147483647) : toS32 (fromS32 v) = v := by
  unfold toS32 fromS32
  exact BitVec.toInt_ofInt_eq_self (by decide) (by simpa using h1) (by omega)

/-- Writing back what was read changes nothing (00_scope.md R11). -/
@[simp] theorem fromS32_toS32 (u : Field32) : fromS32 (toS32 u) = u := BitVec.ofInt_toInt

theorem toS32_mem (u : Field32) : -2147483648 ≤ toS32 u ∧ toS32 u ≤ 2147483647 := by
  have h1 := BitVec.le_toInt u
  have h2 := BitVec.toInt_lt (x := u)
  unfold toS32; omega

theorem clamp_mem {v lo hi : Int} (h : lo ≤ hi) : lo ≤ clamp v lo hi ∧ clamp v lo hi ≤ hi := by
  unfold clamp; split
  · omega
  · split <;> omega

theorem clamp_of_mem {v lo hi : Int} (h1 : lo ≤ v) (h2 : v ≤ hi) : clamp v lo hi = v := by
  unfold clamp; rw [if_neg (by omega), if_neg (by omega)]

@[simp] theorem indexOperand_val (i : Nat) : (indexOperand i).val = min i 88 := rfl

theorem indexOperand_of_stepIndex (i : StepIndex) : indexOperand i.val = i :=
  Fin.ext (by have := i.isLt; simp only [indexOperand_val]; omega)

@[simp] theorem signOf_codeOf (delta : Mag) (sign : Bool) : signOf (codeOf delta sign) = sign := by
  revert delta; cases sign <;> decide

@[simp] theorem magOf_codeOf (delta : Mag) (sign : Bool) : magOf (codeOf delta sign) = delta := by
  revert delta; cases sign <;> decide

/-- A code is made of its magnitude and its sign (30_encoding.md R60). -/
@[simp] theorem codeOf_magOf_signOf (c : Code) : codeOf (magOf c) (signOf c) = c := by
  revert c; decide

theorem packByte_toNat (a b : Code) : (packByte a b).toNat = a.toNat * 16 + b.toNat := by
  have : ∀ a b : Code, (packByte a b).toNat = a.toNat * 16 + b.toNat := by decide
  exact this a b

@[simp] theorem highCode_packByte (a b : Code) : highCode (packByte a b).toNat = a := by
  have := b.isLt
  rw [packByte_toNat]; unfold highCode
  rw [show (a.toNat * 16 + b.toNat) / 16 = a.toNat by omega]; simp

@[simp] theorem lowCode_packByte (a b : Code) : lowCode (packByte a b).toNat = b := by
  have := b.isLt
  rw [packByte_toNat]; unfold lowCode
  apply BitVec.eq_of_toNat_eq; rw [BitVec.toNat_ofNat]; omega

@[simp] theorem setWidth_zextByte (b : Byte) : (zextByte b).setWidth 8 = b := by
  unfold zextByte; apply BitVec.eq_of_toNat_eq
  have := b.isLt; simp only [BitVec.toNat_setWidth]; omega

/-- A predicted value after an update lies within the saturation bounds. -/
theorem updatePred_mem {cfg : Config} (h : cfg.pvMin ≤ cfg.pvMax) (pv : Int) (sign : Bool) (v : Nat) :
    cfg.pvMin ≤ updatePred cfg pv sign v ∧ updatePred cfg pv sign v ≤ cfg.pvMax := clamp_mem h

end Sys2Proof.Machine
end

