-- ==== Sys2Proof/Laws/PerInstr.lean ====
section
/-! SUPPORT. The statements made per instruction: the encoding of an instruction has the fixed bits of its row
of the opcode table. -/

namespace Sys2Proof.Laws.TableMatch

/-- The fixed bits of the encoding of `i` are those of its row of the opcode table (30_encoding.md R64). -/
def Statement (i : Instr) : Prop := encodedBits (encode i) &&& (tableRow i).1 = (tableRow i).2

/-- The fixed bits of a command word are its command number at bits 42:39 (30_encoding.md R63, R64). -/
theorem commandWordOf_mask (op : BitVec 4) (idx : BitVec 7) (data : Field32) :
    (commandWordOf op idx data).toNat &&& 0x78000000000 = op.toNat * 2 ^ 39 := by
  have h : (commandWordOf op idx data) &&& 0x78000000000#43 = op ++ 0#39 := by
    apply BitVec.eq_of_getLsbD_eq
    intro k hk
    simp only [commandWordOf, BitVec.getLsbD_and, BitVec.getLsbD_append, BitVec.getLsbD_zero]
    interval_cases k <;> simp (decide := true)
  have h2 := congrArg BitVec.toNat h
  rw [BitVec.toNat_and, BitVec.toNat_append] at h2
  simpa [Nat.shiftLeft_eq] using h2

theorem encLdst (pv : Int) (idx : Nat) : Statement (.encLdst pv idx) := commandWordOf_mask _ _ _
theorem encRdst : Statement (.encRdst) := rfl
theorem encSmp (x : Int) : Statement (.encSmp x) := commandWordOf_mask _ _ _
theorem encEnd : Statement (.encEnd) := rfl
theorem lutStep (idx : Nat) : Statement (.lutStep idx) := commandWordOf_mask _ _ _
theorem lutAdj (c : Nat) : Statement (.lutAdj c) := commandWordOf_mask _ _ _
theorem decLdst (pv : Int) (idx : Nat) : Statement (.decLdst pv idx) := commandWordOf_mask _ _ _
theorem decRdst : Statement (.decRdst) := rfl
theorem decPair (b : Nat) : Statement (.decPair b) := commandWordOf_mask _ _ _
theorem decHigh (b : Nat) : Statement (.decHigh b) := commandWordOf_mask _ _ _
theorem unassigned0 : Statement (.unassigned0) := rfl
theorem unassigned5 : Statement (.unassigned5) := rfl
theorem unassigned8 : Statement (.unassigned8) := rfl
theorem unassignedD : Statement (.unassignedD) := rfl
theorem unassignedE : Statement (.unassignedE) := rfl
theorem unassignedF : Statement (.unassignedF) := rfl
theorem code0 : Statement (.code0) := rfl
theorem code1 : Statement (.code1) := rfl
theorem code2 : Statement (.code2) := rfl
theorem code3 : Statement (.code3) := rfl
theorem code4 : Statement (.code4) := rfl
theorem code5 : Statement (.code5) := rfl
theorem code6 : Statement (.code6) := rfl
theorem code7 : Statement (.code7) := rfl
theorem code8 : Statement (.code8) := rfl
theorem code9 : Statement (.code9) := rfl
theorem code10 : Statement (.code10) := rfl
theorem code11 : Statement (.code11) := rfl
theorem code12 : Statement (.code12) := rfl
theorem code13 : Statement (.code13) := rfl
theorem code14 : Statement (.code14) := rfl
theorem code15 : Statement (.code15) := rfl

end Sys2Proof.Laws.TableMatch
end

