-- ==== Sys2Proof/Machine/Buffers.lean ====
section
/-! DEFINITION. The whole-buffer functions of 43_buffer_functions_and_laws.md (R170, R171), over the
per-sample steps, for any configuration. -/

namespace Sys2Proof.Machine

/-- What encoding a buffer gives: the bytes and the final Codec State (R170). -/
structure EncodedBuffer where
  /-- The packed bytes, in time order. -/
  bytes : List Byte
  /-- The final predicted value. -/
  pv : Int
  /-- The final step index. -/
  idx : StepIndex
  deriving DecidableEq, Repr

/-- What decoding a buffer gives: the samples and the final Codec State (R171). -/
structure DecodedBuffer where
  /-- The samples, in time order. -/
  samples : List Int
  /-- The final predicted value. -/
  pv : Int
  /-- The final step index. -/
  idx : StepIndex
  deriving DecidableEq, Repr

/-- The loop of `encode_buffer` from a pending code on (R170). -/
def encodeFrom (cfg : Config) (pending : Option Code) (pv : Int) (idx : StepIndex) : List Int → EncodedBuffer
  | [] => { bytes := (pending.map fun c => packByte c 0).toList, pv := pv, idx := idx }
  | x :: xs =>
    let r := encStep cfg pv idx x
    match pending with
    | none => encodeFrom cfg (some r.code) r.pv r.idx xs
    | some c =>
      let rest := encodeFrom cfg none r.pv r.idx xs
      { rest with bytes := packByte c r.code :: rest.bytes }

/-- `encode_buffer(S, pv, idx)` (R170). -/
def encodeBuffer (cfg : Config) (samples : List Int) (pv : Int) (idx : StepIndex) : EncodedBuffer :=
  encodeFrom cfg none pv idx samples

/-- The codes that encoding a buffer produces, before packing (R177 (b)). -/
def encodeCodes (cfg : Config) (pv : Int) (idx : StepIndex) : List Int → List Code
  | [] => []
  | x :: xs =>
    let r := encStep cfg pv idx x
    r.code :: encodeCodes cfg r.pv r.idx xs

/-- The encoder's predicted values `q_0`, `q_1`, ... after each sample (R181). -/
def predictions (cfg : Config) (pv : Int) (idx : StepIndex) : List Int → List Int
  | [] => []
  | x :: xs =>
    let r := encStep cfg pv idx x
    r.pv :: predictions cfg r.pv r.idx xs

/-- The codes of a byte sequence, high nibble first (R171, 20_memory.md R46). -/
def codesOfBytes : List Byte → List Code
  | [] => []
  | b :: bs => highCode b.toNat :: lowCode b.toNat :: codesOfBytes bs

/-- Decoding a sequence of codes, one `dec_step` each (R171). -/
def decodeCodes (cfg : Config) (pv : Int) (idx : StepIndex) : List Code → DecodedBuffer
  | [] => { samples := [], pv := pv, idx := idx }
  | c :: cs =>
    let r := decStep cfg pv idx c
    let rest := decodeCodes cfg r.pv r.idx cs
    { rest with samples := r.sample :: rest.samples }

/-- `decode_buffer(B, pv, idx, n)`: the first `n` codes of `B`, in order. A count above twice the number of
bytes is refused (R171, 60_exceptions.md R214 (c)). -/
def decodeBuffer (cfg : Config) (bytes : List Byte) (pv : Int) (idx : StepIndex) (n : Nat) :
    Option DecodedBuffer :=
  if n ≤ 2 * bytes.length then some (decodeCodes cfg pv idx ((codesOfBytes bytes).take n)) else none

end Sys2Proof.Machine
end

