-- ==== Sys2Proof/Machine/Program.lean ====
section
/-! DEFINITION. Command sequences, the pseudo-instructions of 30_encoding.md R78 and
43_buffer_functions_and_laws.md R172, R173, and what a host collects from the responses
(70_reset_and_hazards.md R233). -/

namespace Sys2Proof.Machine

/-- A sequence of instructions performed in order, each on the state the one before left (20_memory.md R50). -/
def execAll : List Instr → State → Outcome
  | [], s => .next s
  | i :: is, s =>
    match exec i s with
    | .next t => execAll is t
    | .fault f => .fault f
    | .refused r => .refused r

/-- `ENCODE s0, ..., s(n-1)` (R172). -/
def expandEncode (samples : List Int) : List Instr := samples.map Instr.encSmp ++ [.encEnd]

/-- `DECODE n; b0, b1, ...`: `DEC.PAIR` on the first `n div 2` bytes and, for an odd `n`, `DEC.HIGH` on the
next (R173). It needs `n` codes, so a larger count is refused. -/
def expandDecode (n : Nat) (bytes : List Byte) : Option (List Instr) :=
  if n ≤ 2 * bytes.length then
    some ((bytes.take (n / 2)).map (fun b => Instr.decPair b.toNat)
      ++ ((bytes.drop (n / 2)).take (n % 2)).map (fun b => Instr.decHigh b.toNat))
  else none

/-- `DECODE.ALL b0, ..., b(m-1)`: `DEC.PAIR` on every byte (R173). -/
def expandDecodeAll (bytes : List Byte) : List Instr := bytes.map (fun b => Instr.decPair b.toNat)

/-- `ENC.INIT` stands for `ENC.LDST 0, 0` (30_encoding.md R78). -/
def encInit : Instr := .encLdst 0 0

/-- `DEC.INIT` stands for `DEC.LDST 0, 0` (30_encoding.md R78). -/
def decInit : Instr := .decLdst 0 0

/-- The bytes of an encode call: `d0[7:0]` of the responses with `n = 1`, in order (R172). -/
def collectBytes : List Response → List Byte
  | [] => []
  | r :: rs => if r.n = 1 then r.d0.setWidth 8 :: collectBytes rs else collectBytes rs

/-- The samples of a decode call: `d0` then `d1` of a response with `n = 2`, `d0` of one with `n = 1` (R173). -/
def collectSamples : List Response → List Int
  | [] => []
  | r :: rs =>
    if r.n = 2 then toS32 r.d0 :: toS32 r.d1 :: collectSamples rs
    else if r.n = 1 then toS32 r.d0 :: collectSamples rs
    else collectSamples rs

end Sys2Proof.Machine
end

