-- ==== Sys2Proof/Safety.lean ====
section
/-! DEFINITION. What a good state of CORE is: the invariants of 10_state.md R31, and the shape of the
responses of 30_encoding.md R68; and which unit an instruction belongs to (30_encoding.md R64). -/

namespace Sys2Proof.Machine

/-- A predicted value within the saturation bounds of `cfg` (10_state.md R31 (b)). -/
def PvInRange (cfg : Config) (pv : Int) : Prop := cfg.pvMin ≤ pv ∧ pv ≤ cfg.pvMax

/-- The invariants (a), (b) and (c) of 10_state.md R31, for the modelled device. -/
def State.Inv (s : State) : Prop :=
  (s.enc.idx.val ≤ 88 ∧ s.dec.idx.val ≤ 88) ∧
  (PvInRange device s.encPv ∧ PvInRange device s.decPv) ∧
  (s.enc.phase = false → s.enc.hold = 0)

/-- The shape of a response: `n` is never 3, and a data field that carries no result is 0
(30_encoding.md R68). -/
def Response.WellShaped (r : Response) : Prop :=
  r.n ≠ 3 ∧ (r.n = 0 → r.d0 = 0) ∧ (r.n = 0 ∨ r.n = 1 → r.d1 = 0) ∧ (r.ok = false → r.n = 0)

/-- The unit that an instruction belongs to (30_encoding.md R64; the NIBBLE rows are consumed by the
decoder). -/
inductive BlockUnit where
  | encoder
  | decoder
  | tables
  | unassigned
  deriving DecidableEq, Repr

/-- The unit of an instruction (30_encoding.md R64). -/
def unitOf : Instr → BlockUnit
  | .encLdst _ _ => .encoder
  | .encRdst => .encoder
  | .encSmp _ => .encoder
  | .encEnd => .encoder
  | .lutStep _ => .tables
  | .lutAdj _ => .tables
  | .decLdst _ _ => .decoder
  | .decRdst => .decoder
  | .decPair _ => .decoder
  | .decHigh _ => .decoder
  | .unassigned0 => .unassigned
  | .unassigned5 => .unassigned
  | .unassigned8 => .unassigned
  | .unassignedD => .unassigned
  | .unassignedE => .unassigned
  | .unassignedF => .unassigned
  | .code0 => .decoder
  | .code1 => .decoder
  | .code2 => .decoder
  | .code3 => .decoder
  | .code4 => .decoder
  | .code5 => .decoder
  | .code6 => .decoder
  | .code7 => .decoder
  | .code8 => .decoder
  | .code9 => .decoder
  | .code10 => .decoder
  | .code11 => .decoder
  | .code12 => .decoder
  | .code13 => .decoder
  | .code14 => .decoder
  | .code15 => .decoder

/-- One row of 42_decoder.md R140 to R155: what the decoder makes of code `c` (the direction `down`, the amount
`vpdiff` as a function of the step size, the index adjustment `adj`), and exactly when the encoder emits it
(the direction, `lo <= d`, and `d < hi` where there is an upper limit). -/
def CodeRow (c : Code) (down : Bool) (vpdiff : Nat → Nat) (adj : Int) (lo : Nat → Nat)
    (hi : Option (Nat → Nat)) : Prop :=
  ∀ (cfg : Config) (pv : Int) (idx : StepIndex),
    (decStep cfg pv idx c).pv =
      clamp (if down then pv - vpdiff (cfg.stepTable idx) else pv + vpdiff (cfg.stepTable idx))
        cfg.pvMin cfg.pvMax ∧
    (decStep cfg pv idx c).sample = (decStep cfg pv idx c).pv ∧
    ((decStep cfg pv idx c).idx.val : Int) = clamp (idx.val + adj) 0 88 ∧
    ∀ sample : Int, (encStep cfg pv idx sample).code = c ↔
      ((down = true ↔ sample < pv) ∧ lo (cfg.stepTable idx) ≤ (sample - pv).natAbs ∧
        ∀ h ∈ hi, (sample - pv).natAbs < h (cfg.stepTable idx))

/-- `t` is `s` after one code was decoded on the decoder's registers: the predicted value moved by `move` and
was clamped, the index by `adj`, the sample is the one result, and all else is unchanged. -/
def CodeMoved (s t : State) (move adj : Int) : Prop :=
  t.decPv = clamp (s.decPv + move) device.pvMin device.pvMax ∧
  (t.dec.idx.val : Int) = clamp (s.dec.idx.val + adj) 0 88 ∧
  t.enc = s.enc ∧ t.input = s.input ∧
  t.responses = s.responses ++ [{ ok := true, n := 1, d1 := 0, d0 := t.dec.pv }]

end Sys2Proof.Machine
end

