-- ==== Sys2Proof/Certificates/Slice0/Obligations.lean ====
section
/-! DEFINITION. The statements about the model of CORE, for the provers. Each docstring names the rule of spec/ it
formalises. The device's parameters are free (log entries 1 and 2), so what is said of `device`, or of every
`cfg`, holds for every step-size table and every pair of bounds that 00_scope.md R6 admits. There is no
writable memory (20_memory.md R40), so no statement has a memory frame.
The fields `input` and `responses` are the model's own (log entry 3): a clause on `input` says that a command takes
nothing more from the port, a clause on `responses` which response words the command returns.
Statements over all of `Instr` take in the bare nibble codes, which run as items of their own by the model's choice
(log entry 4, DESIGN CHOICE). -/

open Sys2Proof Sys2Proof.Machine

/-- A step takes the next encoding on the command port and is exec of the decoded, well-formed instruction.
Derived from R8, R50, R52, R76. The second clause, on withFetchWord and decodeTableWord, is the model's
choice (log entries 9 and 10, DESIGN CHOICE), and so are the NIBBLE items of the port (log entry 4, DESIGN
CHOICE). -/
def Obligations.StepRunsTheDecodedInstruction : Prop :=
  (∀ (s : State) (e : Encoded) (rest : List HostInput), s.input = .present e :: rest →
    (decode e).wellFormed = true ∧ step s = exec (decode e) { s with input := rest }) ∧
  ∀ (s : State) (nbits w : Nat) (i : Instr), decodeTableWord nbits w = some i →
    step (s.withFetchWord nbits w) = exec i s

/-- A reset event writes 0 to every register, answers nothing and discards a pending nibble. Formalises
R220, R33. -/
def Obligations.ResetEventClearsTheSixRegisters : Prop :=
  ∀ (s : State) (rest : List HostInput), s.input = .reset :: rest →
    ∃ t, step s = .next t ∧ t.encPv = 0 ∧ t.enc.idx.val = 0 ∧ t.enc.phase = false ∧ t.enc.hold = 0 ∧
      t.decPv = 0 ∧ t.dec.idx.val = 0 ∧ t.responses = s.responses ∧ t.input = rest

/-- With nothing presented a step changes nothing (the model's choice, log entry 7). Derived from
60_exceptions.md section 5 (R213), 70_reset_and_hazards.md section 5 (R232). -/
def Obligations.IdleStepKeepsTheState : Prop :=
  ∀ s : State, s.input = [] → step s = .next s

/-- Right after reset every register holds 0. Formalises R33. -/
def Obligations.ResetStateIsAllZero : Prop :=
  State.reset.encPv = 0 ∧ State.reset.enc.idx.val = 0 ∧ State.reset.enc.phase = false ∧
    State.reset.enc.hold = 0 ∧ State.reset.decPv = 0 ∧ State.reset.dec.idx.val = 0

/-- The steps on a command stream are the commands performed one after the other. Derived from R50, R52,
R232. The NIBBLE items among `es` are the model's choice (log entry 4, DESIGN CHOICE). -/
def Obligations.CommandsRunInOrderOfArrival : Prop :=
  ∀ (es : List Encoded) (s : State), s.input = es.map .present →
    Host.Core.run Sys2Proof.core es.length s = execAll (es.map decode) { s with input := [] }

/-- Words written out from the spec's encodings decode to the instructions they stand for. Derived from R60,
R63, R64, R65, R67, R71, R77. -/
def Obligations.SpecWordsDecode : Prop :=
  decode (.commandWord 0x0FFFFFFFFFB) = .encLdst (-5) 127 ∧
  decode (.commandWord 0x10000000000) = .encRdst ∧
  decode (.commandWord 0x180FFFFFFCE) = .encSmp (-50) ∧
  decode (.commandWord 0x20000000000) = .encEnd ∧
  decode (.commandWord 0x35900000000) = .lutStep 89 ∧
  decode (.commandWord 0x3800000000D) = .lutAdj 13 ∧
  decode (.commandWord 0x4D87FFFFFFF) = .decLdst 2147483647 88 ∧
  decode (.commandWord 0x50000000000) = .decRdst ∧
  decode (.commandWord 0x5800000004B) = .decPair 0x4B ∧
  decode (.commandWord 0x600000000F0) = .decHigh 0xF0 ∧
  decode (.commandWord 0x07FFFFFFFFF) = .unassigned0 ∧
  decode (.commandWord 0x2830000004D) = .unassigned5 ∧
  decode (.commandWord 0x4000000004B) = .unassigned8 ∧
  decode (.commandWord 0x68000000000) = .unassignedD ∧
  decode (.commandWord 0x75800000001) = .unassignedE ∧
  decode (.commandWord 0x7FFFFFFFFFF) = .unassignedF ∧
  decode (.nibble 0b0101) = .code5 ∧ decode (.nibble 0b1011) = .code11

/-- Decoding the encoding of a well-formed instruction gives the instruction back. Derived from R63, R64,
R65, R67, R76, R77. -/
def Obligations.DecodeOfEncodeIsTheInstruction : Prop :=
  ∀ i : Instr, i.wellFormed = true → decode (encode i) = i

/-- Decoding is total, well formed, and picks the table row whose fixed bits the word has. Derived from R60,
R64, R71, R76. -/
def Obligations.DecodeFollowsTheCommandNumber : Prop :=
  (∀ cw : CommandWord, (decodeCommand cw).wellFormed = true ∧
    tableRow (decodeCommand cw) = (0x78000000000, cw.toNat &&& 0x78000000000)) ∧
  ∀ c : Code, (decodeNibble c).wellFormed = true ∧ tableRow (decodeNibble c) = (0xF, c.toNat)

/-- The word of each command is the integer that the syntax table gives. Derived from R63, R73, R77. -/
def Obligations.AssemblerWordsAreAsTabulated : Prop :=
  (∀ (pv : Int) (idx : Nat), -2 ^ 31 ≤ pv → pv ≤ 2 ^ 31 - 1 → idx ≤ 127 →
    encodedBits (encode (.encLdst pv idx)) = 0x1 * 2 ^ 39 + idx * 2 ^ 32 + (pv % 2 ^ 32).toNat ∧
    encodedBits (encode (.decLdst pv idx)) = 0x9 * 2 ^ 39 + idx * 2 ^ 32 + (pv % 2 ^ 32).toNat) ∧
  (∀ s : Int, -2 ^ 31 ≤ s → s ≤ 2 ^ 31 - 1 →
    encodedBits (encode (.encSmp s)) = 0x3 * 2 ^ 39 + (s % 2 ^ 32).toNat) ∧
  (∀ idx : Nat, idx ≤ 127 → encodedBits (encode (.lutStep idx)) = 0x6 * 2 ^ 39 + idx * 2 ^ 32) ∧
  (∀ c : Nat, c ≤ 15 → encodedBits (encode (.lutAdj c)) = 0x7 * 2 ^ 39 + c) ∧
  (∀ b : Nat, b ≤ 255 → encodedBits (encode (.decPair b)) = 0xB * 2 ^ 39 + b ∧
    encodedBits (encode (.decHigh b)) = 0xC * 2 ^ 39 + b) ∧
  encodedBits (encode .encRdst) = 0x2 * 2 ^ 39 ∧ encodedBits (encode .encEnd) = 0x4 * 2 ^ 39 ∧
  encodedBits (encode .decRdst) = 0xA * 2 ^ 39

/-- A field that a command does not use gives the same behaviour at any value. Formalises R73. -/
def Obligations.IgnoredFieldsDoNotMatter : Prop :=
  ∀ (idx idx' : BitVec 7) (data data' : Field32) (s : State),
    let run := fun (op : BitVec 4) (i : BitVec 7) (d : Field32) =>
      exec (decode (.commandWord (commandWordOf op i d))) s
    (∀ op ∈ [0x2#4, 0x4#4, 0xA#4, 0x0#4, 0x5#4, 0x8#4, 0xD#4, 0xE#4, 0xF#4],
      run op idx data = run op idx' data') ∧
    run 0x3 idx data = run 0x3 idx' data ∧
    run 0x6 idx data = run 0x6 idx data' ∧
    (data.extractLsb' 0 4 = data'.extractLsb' 0 4 → run 0x7 idx data = run 0x7 idx' data') ∧
    (data.extractLsb' 0 8 = data'.extractLsb' 0 8 → run 0xB idx data = run 0xB idx' data') ∧
    (data.extractLsb' 4 4 = data'.extractLsb' 4 4 → run 0xC idx data = run 0xC idx' data')

/-- The encoder's incremental vpdiff is the decoder's reconstruction of its magnitude code. Formalises R94.
-/
def Obligations.QuantizeAgreesWithReconstruct : Prop :=
  ∀ d step : Nat, 1 ≤ step → (quantize d step).vpdiff = reconstruct (quantize d step).delta step

/-- The magnitude code is decided by eight intervals of the difference, small steps included. Formalises
R156, R101. -/
def Obligations.QuantizerDecisionIntervals : Prop :=
  (∀ d step : Nat, 1 ≤ step →
    let s1 := step >>> 1
    let s2 := step >>> 2
    let delta := (quantize d step).delta
    (delta = 0 ↔ d < s2) ∧ (delta = 1 ↔ s2 ≤ d ∧ d < s1) ∧ (delta = 2 ↔ s1 ≤ d ∧ d < s1 + s2) ∧
    (delta = 3 ↔ s1 + s2 ≤ d ∧ d < step) ∧ (delta = 4 ↔ step ≤ d ∧ d < step + s2) ∧
    (delta = 5 ↔ step + s2 ≤ d ∧ d < step + s1) ∧ (delta = 6 ↔ step + s1 ≤ d ∧ d < step + s1 + s2) ∧
    (delta = 7 ↔ step + s1 + s2 ≤ d) ∧
    (step = 1 → delta = (if d = 0 then 3 else 7) ∧ (quantize d step).vpdiff ≤ 1) ∧
    (step = 2 ∨ step = 3 → delta.getLsbD 0 = true) ∧ (4 ≤ step ∧ step ≤ 7 → step >>> 3 = 0)) ∧
  ∀ (cfg : Config) (pv : Int) (idx : StepIndex), (encStep cfg pv idx pv).code ≠ 8

/-- How far the reconstruction can be from the difference. Formalises R102. -/
def Obligations.QuantizationErrorBounds : Prop :=
  ∀ d step : Nat, 1 ≤ step →
    let g := step >>> 3
    let s1 := step >>> 1
    let s2 := step >>> 2
    let q := quantize d step
    (2 * step ≤ d → q.delta = 7 ∧ q.vpdiff = step + s1 + s2 + g) ∧
    (d < 2 * step → -(g : Int) ≤ d - q.vpdiff ∧ (d : Int) - q.vpdiff ≤ s1 - s2 - g ∧
      ((d : Int) - q.vpdiff).natAbs ≤ s2 + 1) ∧
    (q.delta = 0 ↔ d < s2) ∧ (q.delta = 0 → 4 ≤ step ∧ q.vpdiff = g) ∧
    q.vpdiff < 2 * step

/-- The exact intermediates of a step need 33, 32 and 34 bits, and the index sum lies in [-1, 96].
Formalises R100. -/
def Obligations.IntermediatesFitTheirWidths : Prop :=
  ∀ (sample pv : Int) (step : Nat) (idx : StepIndex) (code : Code),
    -2 ^ 31 ≤ sample → sample ≤ 2 ^ 31 - 1 → -2 ^ 31 ≤ pv → pv ≤ 2 ^ 31 - 1 →
    1 ≤ step → step ≤ 2 ^ 31 - 1 →
    let diff := sample - pv
    let v := (quantize diff.natAbs step).vpdiff
    let w := reconstruct (magOf code) step
    (-(2 ^ 32 - 1) ≤ diff ∧ diff ≤ 2 ^ 32 - 1) ∧
    (v ≤ step + (step >>> 1) + (step >>> 2) + (step >>> 3) ∧ v < 2 * step) ∧
    (w ≤ step + (step >>> 1) + (step >>> 2) + (step >>> 3) ∧ w < 2 * step) ∧
    2 * step ≤ 2 ^ 32 - 2 ∧
    (-2 ^ 31 - 2 ^ 32 < pv - v ∧ pv + v < 2 ^ 31 + 2 ^ 32) ∧
    (-2 ^ 31 - 2 ^ 32 < pv - w ∧ pv + w < 2 ^ 31 + 2 ^ 32) ∧
    (-1 ≤ (idx.val : Int) + adjLut code ∧ (idx.val : Int) + adjLut code ≤ 96)

/-- An update of the predicted value saturates at the bounds and never flips its direction. Derived from
R95, R179. -/
def Obligations.PredictionUpdateSaturates : Prop :=
  ∀ (cfg : Config) (pv : Int) (v : Nat), cfg.Admissible →
    (∀ sign, PvInRange cfg (updatePred cfg pv sign v)) ∧
    (∀ sign, let t := if sign = true then pv - (v : Int) else pv + (v : Int)
      (PvInRange cfg t → updatePred cfg pv sign v = t) ∧
      (cfg.pvMax < t → updatePred cfg pv sign v = cfg.pvMax) ∧
      (t < cfg.pvMin → updatePred cfg pv sign v = cfg.pvMin)) ∧
    (PvInRange cfg pv → pv ≤ updatePred cfg pv false v ∧ updatePred cfg pv true v ≤ pv)

/-- What one encode step guarantees about the new predicted value (shortfall within the bounds only, log
entry 13). Derived from R116, R102, R110. -/
def Obligations.EncodeStepApproachesTheSample : Prop :=
  ∀ (cfg : Config) (pv sample : Int) (idx : StepIndex), cfg.Admissible → PvInRange cfg pv →
    let step := cfg.stepTable idx
    let r := encStep cfg pv idx sample
    let v : Int := (quantize (sample - pv).natAbs step).vpdiff
    let near := (sample - pv).natAbs < 2 * step
    PvInRange cfg r.pv ∧ (signOf r.code = true ↔ sample < pv) ∧
    (pv ≤ sample → pv ≤ r.pv ∧ r.pv ≤ sample + (step >>> 3 : Nat)) ∧
    (sample < pv → r.pv ≤ pv ∧ sample - (step >>> 3 : Nat) ≤ r.pv) ∧
    (near → PvInRange cfg sample →
      (pv ≤ sample → sample - r.pv ≤ (step >>> 1 : Nat) - (step >>> 2 : Nat) - (step >>> 3 : Nat)) ∧
      (sample < pv → r.pv - sample ≤ (step >>> 1 : Nat) - (step >>> 2 : Nat) - (step >>> 3 : Nat))) ∧
    (near → PvInRange cfg (if sample < pv then pv - v else pv + v) →
      (sample - r.pv).natAbs ≤ (step >>> 2) + 1)

/-- Decoding the encoder's code from the encoder's state gives the encoder's new state and prediction.
Formalises R135. -/
def Obligations.DecoderStaysInLockStep : Prop :=
  ∀ (cfg : Config) (pv sample : Int) (idx : StepIndex),
    let r := encStep cfg pv idx sample
    decStep cfg pv idx r.code = { pv := r.pv, idx := r.idx, sample := r.pv }

/-- Codes 0 to 7: how far up the decoder moves, the index adjustment, and when the encoder emits each.
Formalises R140, R141, R142, R143, R144, R145, R146, R147. -/
def Obligations.CodesZeroToSevenMoveUp : Prop :=
  CodeRow 0 false (fun p => p >>> 3) (-1) (fun _ => 0) (some fun p => p >>> 2) ∧
  CodeRow 1 false (fun p => p >>> 3 + p >>> 2) (-1) (fun p => p >>> 2) (some fun p => p >>> 1) ∧
  CodeRow 2 false (fun p => p >>> 3 + p >>> 1) (-1) (fun p => p >>> 1) (some fun p => p >>> 1 + p >>> 2) ∧
  CodeRow 3 false (fun p => p >>> 3 + p >>> 1 + p >>> 2) (-1) (fun p => p >>> 1 + p >>> 2) (some fun p => p) ∧
  CodeRow 4 false (fun p => p >>> 3 + p) 2 (fun p => p) (some fun p => p + p >>> 2) ∧
  CodeRow 5 false (fun p => p >>> 3 + p + p >>> 2) 4 (fun p => p + p >>> 2) (some fun p => p + p >>> 1) ∧
  CodeRow 6 false (fun p => p >>> 3 + p + p >>> 1) 6 (fun p => p + p >>> 1)
    (some fun p => p + p >>> 1 + p >>> 2) ∧
  CodeRow 7 false (fun p => p >>> 3 + p + p >>> 1 + p >>> 2) 8 (fun p => p + p >>> 1 + p >>> 2) none

/-- Codes 8 to 15: how far down the decoder moves, the index adjustment, and when the encoder emits each.
Formalises R148, R149, R150, R151, R152, R153, R154, R155. -/
def Obligations.CodesEightToFifteenMoveDown : Prop :=
  CodeRow 8 true (fun p => p >>> 3) (-1) (fun _ => 0) (some fun p => p >>> 2) ∧
  CodeRow 9 true (fun p => p >>> 3 + p >>> 2) (-1) (fun p => p >>> 2) (some fun p => p >>> 1) ∧
  CodeRow 10 true (fun p => p >>> 3 + p >>> 1) (-1) (fun p => p >>> 1) (some fun p => p >>> 1 + p >>> 2) ∧
  CodeRow 11 true (fun p => p >>> 3 + p >>> 1 + p >>> 2) (-1) (fun p => p >>> 1 + p >>> 2) (some fun p => p) ∧
  CodeRow 12 true (fun p => p >>> 3 + p) 2 (fun p => p) (some fun p => p + p >>> 2) ∧
  CodeRow 13 true (fun p => p >>> 3 + p + p >>> 2) 4 (fun p => p + p >>> 2) (some fun p => p + p >>> 1) ∧
  CodeRow 14 true (fun p => p >>> 3 + p + p >>> 1) 6 (fun p => p + p >>> 1)
    (some fun p => p + p >>> 1 + p >>> 2) ∧
  CodeRow 15 true (fun p => p >>> 3 + p + p >>> 1 + p >>> 2) 8 (fun p => p + p >>> 1 + p >>> 2) none

/-- ENC.SMP runs one encode step and holds the first code of a pair or emits the byte of the second.
Formalises R111. -/
def Obligations.EncSmpEncodesAndPacks : Prop :=
  (∀ (idx : BitVec 7) (data : Field32),
    decode (.commandWord (commandWordOf 0x3 idx data)) = .encSmp (toS32 data)) ∧
  ∀ (sample : Int) (s : State),
    let r := encStep device s.encPv s.enc.idx sample
    ∃ t, exec (.encSmp sample) s = .next t ∧ t.encPv = r.pv ∧ t.enc.idx = r.idx ∧
      (s.enc.phase = false → t.enc.phase = true ∧ t.enc.hold = r.code ∧
        t.responses = s.responses ++ [{ ok := true, n := 0, d1 := 0, d0 := 0 }]) ∧
      (s.enc.phase = true → t.enc.phase = false ∧ t.enc.hold = 0 ∧
        t.responses = s.responses ++
          [{ ok := true, n := 1, d1 := 0, d0 := BitVec.ofNat 32 (s.enc.hold.toNat * 16 + r.code.toNat) }]) ∧
      t.dec = s.dec ∧ t.input = s.input

/-- ENC.END emits a pending nibble with low nibble 0, and does nothing when none is pending. Formalises
R112. -/
def Obligations.EncEndFlushesThePendingNibble : Prop :=
  (∀ (idx : BitVec 7) (data : Field32), decode (.commandWord (commandWordOf 0x4 idx data)) = .encEnd) ∧
  ∀ s : State, ∃ t, exec .encEnd s = .next t ∧ t.enc.pv = s.enc.pv ∧ t.enc.idx = s.enc.idx ∧
      (s.enc.phase = true → t.enc.phase = false ∧ t.enc.hold = 0 ∧
        t.responses = s.responses ++
          [{ ok := true, n := 1, d1 := 0, d0 := BitVec.ofNat 32 (s.enc.hold.toNat * 16) }]) ∧
      (s.enc.phase = false → t.enc = s.enc ∧
        t.responses = s.responses ++ [{ ok := true, n := 0, d1 := 0, d0 := 0 }]) ∧
      t.dec = s.dec ∧ t.input = s.input

/-- ENC.LDST loads the clamped predicted value and index and leaves a pending nibble alone. Formalises R113.
-/
def Obligations.EncLdstLoadsTheClampedState : Prop :=
  (∀ (idx : BitVec 7) (data : Field32),
    decode (.commandWord (commandWordOf 0x1 idx data)) = .encLdst (toS32 data) idx.toNat) ∧
  ∀ (pv : Int) (idx : Nat) (s : State), ∃ t, exec (.encLdst pv idx) s = .next t ∧
      t.encPv = max device.pvMin (min pv device.pvMax) ∧ t.enc.idx.val = min idx 88 ∧
      t.enc.phase = s.enc.phase ∧ t.enc.hold = s.enc.hold ∧ t.dec = s.dec ∧ t.input = s.input ∧
      t.responses = s.responses ++ [{ ok := true, n := 0, d1 := 0, d0 := 0 }]

/-- ENC.RDST returns the encoder's predicted value and index and changes no register. Formalises R114. -/
def Obligations.EncRdstReadsTheState : Prop :=
  (∀ (idx : BitVec 7) (data : Field32), decode (.commandWord (commandWordOf 0x2 idx data)) = .encRdst) ∧
  ∀ s : State, ∃ t, exec .encRdst s = .next t ∧ t.enc = s.enc ∧ t.dec = s.dec ∧ t.input = s.input ∧
      t.responses = s.responses ++ [{ ok := true, n := 2, d1 := BitVec.ofNat 32 s.enc.idx.val, d0 := s.enc.pv }]

/-- LUT.STEP returns the step-size table's entry at min(idx, 88), a value in [1, 2^31 - 1], and changes no
register. Formalises R98. -/
def Obligations.LutStepReadsTheStepTable : Prop :=
  (∀ (idx : BitVec 7) (data : Field32),
    decode (.commandWord (commandWordOf 0x6 idx data)) = .lutStep idx.toNat) ∧
  (∀ (idx : Nat) (s : State), ∃ t d0, exec (.lutStep idx) s = .next t ∧
      t.enc = s.enc ∧ t.dec = s.dec ∧ t.input = s.input ∧
      t.responses = s.responses ++ [{ ok := true, n := 1, d1 := 0, d0 := d0 }] ∧
      d0.toNat = device.stepTable ⟨min idx 88, by omega⟩ ∧ 1 ≤ d0.toNat ∧ d0.getLsbD 31 = false) ∧
  ∀ i j : StepIndex, i ≤ j → device.stepTable i ≤ device.stepTable j

/-- LUT.ADJ returns the index adjustment of a code as a signed 32-bit value and changes no register.
Formalises R99, R91. -/
def Obligations.LutAdjReadsTheAdjustmentTable : Prop :=
  (∀ (idx : BitVec 7) (data : Field32),
    decode (.commandWord (commandWordOf 0x7 idx data)) = .lutAdj (data.toNat % 16)) ∧
  (∀ (c : Nat) (s : State), ∃ t d0, exec (.lutAdj c) s = .next t ∧
      t.enc = s.enc ∧ t.dec = s.dec ∧ t.input = s.input ∧
      t.responses = s.responses ++ [{ ok := true, n := 1, d1 := 0, d0 := d0 }] ∧
      d0 = if c % 8 ≤ 3 then 0xFFFFFFFF else BitVec.ofNat 32 (2 * (c % 8 - 3))) ∧
  ∀ c : Code, adjLut c = if c.toNat % 8 ≤ 3 then -1 else 2 * ((c.toNat % 8 : Nat) - 3 : Int)

/-- DEC.PAIR decodes the high code, then the low code from the state the first left. Formalises R131. -/
def Obligations.DecPairDecodesHighThenLow : Prop :=
  (∀ (idx : BitVec 7) (data : Field32),
    decode (.commandWord (commandWordOf 0xB idx data)) = .decPair (data.toNat % 256)) ∧
  ∀ (b : Nat) (s : State),
    let r0 := decStep device s.decPv s.dec.idx (BitVec.ofNat 4 (b / 16))
    let r1 := decStep device r0.pv r0.idx (BitVec.ofNat 4 b)
    ∃ t d0 d1, exec (.decPair b) s = .next t ∧ t.decPv = r1.pv ∧ t.dec.idx = r1.idx ∧
      t.responses = s.responses ++ [{ ok := true, n := 2, d1 := d1, d0 := d0 }] ∧
      toS32 d0 = r0.sample ∧ toS32 d1 = r1.sample ∧ t.enc = s.enc ∧ t.input = s.input

/-- DEC.HIGH decodes b[7:4] only. Formalises R132. -/
def Obligations.DecHighDecodesOnlyTheHighCode : Prop :=
  (∀ (idx : BitVec 7) (data : Field32),
    decode (.commandWord (commandWordOf 0xC idx data)) = .decHigh (data.toNat % 256)) ∧
  (∀ (b : Nat) (s : State),
    let r := decStep device s.decPv s.dec.idx (BitVec.ofNat 4 (b / 16))
    ∃ t d0, exec (.decHigh b) s = .next t ∧ t.decPv = r.pv ∧ t.dec.idx = r.idx ∧
      t.responses = s.responses ++ [{ ok := true, n := 1, d1 := 0, d0 := d0 }] ∧
      toS32 d0 = r.sample ∧ t.enc = s.enc ∧ t.input = s.input) ∧
  ∀ (b b' : Nat) (s : State), b / 16 = b' / 16 → exec (.decHigh b) s = exec (.decHigh b') s

/-- DEC.LDST loads the clamped predicted value and index of the decoder. Formalises R133. -/
def Obligations.DecLdstLoadsTheClampedState : Prop :=
  (∀ (idx : BitVec 7) (data : Field32),
    decode (.commandWord (commandWordOf 0x9 idx data)) = .decLdst (toS32 data) idx.toNat) ∧
  ∀ (pv : Int) (idx : Nat) (s : State), ∃ t, exec (.decLdst pv idx) s = .next t ∧
      t.decPv = max device.pvMin (min pv device.pvMax) ∧ t.dec.idx.val = min idx 88 ∧
      t.enc = s.enc ∧ t.input = s.input ∧
      t.responses = s.responses ++ [{ ok := true, n := 0, d1 := 0, d0 := 0 }]

/-- DEC.RDST returns the decoder's predicted value and index and changes no register. Formalises R134. -/
def Obligations.DecRdstReadsTheState : Prop :=
  (∀ (idx : BitVec 7) (data : Field32), decode (.commandWord (commandWordOf 0xA idx data)) = .decRdst) ∧
  ∀ s : State, ∃ t, exec .decRdst s = .next t ∧ t.enc = s.enc ∧ t.dec = s.dec ∧ t.input = s.input ∧
      t.responses = s.responses ++ [{ ok := true, n := 2, d1 := BitVec.ofNat 32 s.dec.idx.val, d0 := s.dec.pv }]

/-- An unassigned command number changes no register, answers all zero, and the machine goes on. Formalises
R71, R201. -/
def Obligations.UnassignedNumbersAreRefusedAndGoOn : Prop :=
  (∀ (idx : BitVec 7) (data : Field32),
    decode (.commandWord (commandWordOf 0x0 idx data)) = .unassigned0 ∧
    decode (.commandWord (commandWordOf 0x5 idx data)) = .unassigned5 ∧
    decode (.commandWord (commandWordOf 0x8 idx data)) = .unassigned8 ∧
    decode (.commandWord (commandWordOf 0xD idx data)) = .unassignedD ∧
    decode (.commandWord (commandWordOf 0xE idx data)) = .unassignedE ∧
    decode (.commandWord (commandWordOf 0xF idx data)) = .unassignedF) ∧
  ∀ i ∈ [Instr.unassigned0, .unassigned5, .unassigned8, .unassignedD, .unassignedE, .unassignedF],
    ∀ s : State, ∃ t, exec i s = .next t ∧ t.enc = s.enc ∧ t.dec = s.dec ∧ t.input = s.input ∧
      t.responses = s.responses ++ [{ ok := false, n := 0, d1 := 0, d0 := 0 }] ∧
      responseWord { ok := false, n := 0, d1 := 0, d0 := 0 } = 0

/-- Codes 0 to 7 as items of their own complete as one decode step (the model's choice, log entry 4).
Derived from 42_decoder.md section 3 (R140 to R147). -/
def Obligations.NibbleCodesMoveTheDecoderUp : Prop :=
  ∀ s : State,
    let p := device.stepTable s.dec.idx
    let g : Int := (p >>> 3 : Nat)
    let s1 : Int := (p >>> 1 : Nat)
    let s2 : Int := (p >>> 2 : Nat)
    (∃ t, exec .code0 s = .next t ∧ CodeMoved s t g (-1)) ∧
    (∃ t, exec .code1 s = .next t ∧ CodeMoved s t (g + s2) (-1)) ∧
    (∃ t, exec .code2 s = .next t ∧ CodeMoved s t (g + s1) (-1)) ∧
    (∃ t, exec .code3 s = .next t ∧ CodeMoved s t (g + s1 + s2) (-1)) ∧
    (∃ t, exec .code4 s = .next t ∧ CodeMoved s t (g + p) 2) ∧
    (∃ t, exec .code5 s = .next t ∧ CodeMoved s t (g + p + s2) 4) ∧
    (∃ t, exec .code6 s = .next t ∧ CodeMoved s t (g + p + s1) 6) ∧
    (∃ t, exec .code7 s = .next t ∧ CodeMoved s t (g + p + s1 + s2) 8)

/-- Codes 8 to 15 as items of their own complete as one decode step (the model's choice, log entry 4).
Derived from 42_decoder.md section 3 (R148 to R155). -/
def Obligations.NibbleCodesMoveTheDecoderDown : Prop :=
  ∀ s : State,
    let p := device.stepTable s.dec.idx
    let g : Int := (p >>> 3 : Nat)
    let s1 : Int := (p >>> 1 : Nat)
    let s2 : Int := (p >>> 2 : Nat)
    (∃ t, exec .code8 s = .next t ∧ CodeMoved s t (-g) (-1)) ∧
    (∃ t, exec .code9 s = .next t ∧ CodeMoved s t (-(g + s2)) (-1)) ∧
    (∃ t, exec .code10 s = .next t ∧ CodeMoved s t (-(g + s1)) (-1)) ∧
    (∃ t, exec .code11 s = .next t ∧ CodeMoved s t (-(g + s1 + s2)) (-1)) ∧
    (∃ t, exec .code12 s = .next t ∧ CodeMoved s t (-(g + p)) 2) ∧
    (∃ t, exec .code13 s = .next t ∧ CodeMoved s t (-(g + p + s2)) 4) ∧
    (∃ t, exec .code14 s = .next t ∧ CodeMoved s t (-(g + p + s1)) 6) ∧
    (∃ t, exec .code15 s = .next t ∧ CodeMoved s t (-(g + p + s1 + s2)) 8)

/-- A bare nibble code does what DEC.HIGH does on a byte with that code in its high nibble (log entry 4).
Derived from 42_decoder.md section 3, 95_test_vectors.md section 3.5, R132. -/
def Obligations.BareCodeIsDecHighOfItsByte : Prop :=
  ∀ (c : Code) (low : Nat) (s : State), low < 16 →
    exec (decode (.nibble c)) s = exec (.decHigh (c.toNat * 16 + low)) s

/-- Every instruction from every state gives a next state and exactly one response, ok exactly when
assigned. Derived from R15, R71, R200, R201, R204. That the NIBBLE rows complete with ok = 1 is the model's
choice (log entry 4, DESIGN CHOICE); that an unassigned command number gives a next state, although
60_exceptions.md R214 (c) calls it a refusal, is the model's reading (log entry 6, DEDUCED). -/
def Obligations.EveryInstructionCompletesWithOneResponse : Prop :=
  ∀ (i : Instr) (s : State), ∃ t r, exec i s = .next t ∧ t.input = s.input ∧
    t.responses = s.responses ++ [r] ∧ (r.ok = false ↔ unitOf i = .unassigned)

/-- Every step keeps the index bounds, the saturation bounds and the empty hold register. Formalises R31. -/
def Obligations.InvariantsKeptByEveryStep : Prop :=
  ∀ s t : State, s.Inv → step s = .next t → t.Inv

/-- The state after reset meets the invariants. Derived from R31, R33. -/
def Obligations.ResetStateMeetsTheInvariants : Prop :=
  State.reset.Inv ∧ ∀ s : State, (resetEvent s).Inv

/-- Every step keeps the responses well shaped: n is never 3 and unused data fields are 0. Derived from R68,
R70. -/
def Obligations.ResponsesKeepTheirShape : Prop :=
  ∀ s t : State, (∀ r ∈ s.responses, r.WellShaped) → step s = .next t → ∀ r ∈ t.responses, r.WellShaped

/-- The response word is ok * 2^66 + n * 2^64 + d1 * 2^32 + d0, and its fields can be read back. Derived
from R68. -/
def Obligations.ResponseWordLayout : Prop :=
  ∀ r : Response,
    (responseWord r).toNat = (if r.ok then 2 ^ 66 else 0) + r.n.toNat * 2 ^ 64 + r.d1.toNat * 2 ^ 32 + r.d0.toNat ∧
    (responseWord r).getLsbD 66 = r.ok ∧ (responseWord r).extractLsb' 64 2 = r.n ∧
    (responseWord r).extractLsb' 32 32 = r.d1 ∧ (responseWord r).extractLsb' 0 32 = r.d0

/-- Frame: each register changes only under the commands of its 'written by' column. Derived from R20, R38.
-/
def Obligations.OnlyNamedCommandsWriteARegister : Prop :=
  ∀ (i : Instr) (s t : State), exec i s = .next t →
    (t.enc.pv = s.enc.pv ∧ t.enc.idx = s.enc.idx ∨
      (∃ pv idx, i = .encLdst pv idx) ∨ ∃ x, i = .encSmp x) ∧
    (t.enc.phase = s.enc.phase ∧ t.enc.hold = s.enc.hold ∨ i = .encEnd ∨ ∃ x, i = .encSmp x) ∧
    (t.dec = s.dec ∨ (∃ pv idx, i = .decLdst pv idx) ∨ (∃ b, i = .decPair b) ∨ (∃ b, i = .decHigh b) ∨
      ∃ c, i = decodeNibble c) ∧
    t.input = s.input ∧ ∃ rs, t.responses = s.responses ++ rs

/-- ENC.RDST, DEC.RDST, LUT.STEP and LUT.ADJ change no state and may be repeated freely. Formalises R53. -/
def Obligations.ReadsHaveNoSideEffects : Prop :=
  ∀ (i : Instr) (s : State), (i = .encRdst ∨ i = .decRdst ∨ (∃ idx, i = .lutStep idx) ∨ ∃ c, i = .lutAdj c) →
    ∃ t u r, exec i s = .next t ∧ exec i t = .next u ∧ t.enc = s.enc ∧ t.dec = s.dec ∧
      u.enc = s.enc ∧ u.dec = s.dec ∧ t.responses = s.responses ++ [r] ∧ u.responses = s.responses ++ [r, r]

/-- A command's response and its unit's new registers do not depend on the other unit. Derived from R20,
R184. -/
def Obligations.UnitsDoNotInfluenceEachOther : Prop :=
  ∀ (i : Instr) (s s' : State), ∃ t t' r r', exec i s = .next t ∧ exec i s' = .next t' ∧
    t.responses = s.responses ++ [r] ∧ t'.responses = s'.responses ++ [r'] ∧
    (unitOf i = .encoder → t.dec = s.dec ∧ (s.enc = s'.enc → r = r' ∧ t.enc = t'.enc)) ∧
    (unitOf i = .decoder → t.enc = s.enc ∧ (s.dec = s'.dec → r = r' ∧ t.dec = t'.dec)) ∧
    (unitOf i = .tables ∨ unitOf i = .unassigned → r = r' ∧ t.enc = s.enc ∧ t.dec = s.dec)

/-- Any interleaving gives each unit the responses and final state of its own commands alone. Formalises
R184. -/
def Obligations.InterleavingDoesNotMatter : Prop :=
  ∀ (is : List Instr) (s : State),
    let ofUnit := fun (u : BlockUnit) => is.filter (fun i => unitOf i = u)
    ∃ t te td rs re rd, execAll is s = .next t ∧
      execAll (ofUnit .encoder) s = .next te ∧ execAll (ofUnit .decoder) s = .next td ∧
      t.responses = s.responses ++ rs ∧ te.responses = s.responses ++ re ∧ td.responses = s.responses ++ rd ∧
      rs.length = is.length ∧ t.enc = te.enc ∧ t.dec = td.dec ∧ te.dec = s.dec ∧ td.enc = s.enc ∧
      ((is.zip rs).filter (fun p => unitOf p.1 = .encoder)).map Prod.snd = re ∧
      ((is.zip rs).filter (fun p => unitOf p.1 = .decoder)).map Prod.snd = rd

/-- Only ENC.SMP and ENC.END let the host see the pending nibble. Derived from R29, R35. -/
def Obligations.PendingNibbleIsHidden : Prop :=
  ∀ (i : Instr) (s : State) (phase : Bool) (hold : Code),
    i ≠ .encEnd → (∀ x, i ≠ .encSmp x) →
    ∃ t t' r, exec i s = .next t ∧ exec i { s with enc := { s.enc with phase := phase, hold := hold } } = .next t' ∧
      t.responses = s.responses ++ [r] ∧ t'.responses = s.responses ++ [r] ∧
      t.enc.pv = t'.enc.pv ∧ t.enc.idx = t'.enc.idx ∧ t.dec = t'.dec

/-- Loading what RDST returned restores the Codec State, in any later state. Derived from R29, R113, R114,
R133, R134, R226. -/
def Obligations.SavedStateCanBeLoadedBack : Prop :=
  ∀ s s' : State, s.Inv →
    (∃ t r u, exec .encRdst s = .next t ∧ t.responses = s.responses ++ [r] ∧
      exec (.encLdst (toS32 r.d0) r.d1.toNat) s' = .next u ∧
      u.enc.pv = s.enc.pv ∧ u.enc.idx = s.enc.idx) ∧
    (∃ t r u, exec .decRdst s = .next t ∧ t.responses = s.responses ++ [r] ∧
      exec (.decLdst (toS32 r.d0) r.d1.toNat) s' = .next u ∧ u.dec = s.dec)

/-- ENC.SMP on each sample and then ENC.END returns the bytes and final state of encode_buffer. Formalises
R172. -/
def Obligations.EncodeExpansionIsEncodeBuffer : Prop :=
  (∀ (xs : List Int) (s : State), s.Inv → s.enc.phase = false →
    let e := encodeBuffer device xs s.encPv s.enc.idx
    ∃ t rs, execAll (expandEncode xs) s = .next t ∧ t.responses = s.responses ++ rs ∧
      rs.length = xs.length + 1 ∧ collectBytes rs = e.bytes ∧ t.encPv = e.pv ∧ t.enc.idx = e.idx ∧
      t.enc.phase = false ∧ t.enc.hold = 0 ∧ t.dec = s.dec) ∧
  ∀ (xs : List Int) (pv : Int) (idx : Nat) (s : State), s.Inv → s.enc.phase = false →
    let e := encodeBuffer device xs (clamp pv device.pvMin device.pvMax) (indexOperand idx)
    ∃ t rs, execAll (.encLdst pv idx :: (expandEncode xs ++ [.encRdst])) s = .next t ∧
      t.responses = s.responses ++ rs ∧ collectBytes rs = e.bytes ∧
      rs.getLast? = some { ok := true, n := 2, d1 := BitVec.ofNat 32 e.idx.val, d0 := fromS32 e.pv }

/-- DEC.PAIR on each whole byte and DEC.HIGH on an odd last one return the samples of decode_buffer. Derived
from R173. That a count above twice the number of bytes has no expansion is the model's reading (log entry
12, DEDUCED); the rest is R173 whole. -/
def Obligations.DecodeExpansionIsDecodeBuffer : Prop :=
  (∀ (n : Nat) (bytes : List Byte) (s : State), n ≤ 2 * bytes.length →
    ∃ is d t rs, expandDecode n bytes = some is ∧
      decodeBuffer device bytes s.decPv s.dec.idx n = some d ∧ execAll is s = .next t ∧
      t.responses = s.responses ++ rs ∧ collectSamples rs = d.samples ∧ t.decPv = d.pv ∧ t.dec.idx = d.idx ∧
      t.enc = s.enc) ∧
  (∀ (n : Nat) (bytes : List Byte), 2 * bytes.length < n → expandDecode n bytes = none) ∧
  (∀ bytes : List Byte, expandDecode 0 bytes = some []) ∧
  ∀ bytes : List Byte, expandDecode (2 * bytes.length) bytes = some (expandDecodeAll bytes)

/-- n samples give ceil(n / 2) bytes, and an odd count leaves the last low nibble 0. Formalises R174. -/
def Obligations.EncodedLengthAndPadding : Prop :=
  ∀ (cfg : Config) (xs : List Int) (pv : Int) (idx : StepIndex),
    (encodeBuffer cfg xs pv idx).bytes.length = (xs.length + 1) / 2 ∧
    (∀ x, xs = [x] → (encodeBuffer cfg xs pv idx).bytes = [packByte (encStep cfg pv idx x).code 0]) ∧
    (xs.length % 2 = 1 → ∃ b, (encodeBuffer cfg xs pv idx).bytes.getLast? = some b ∧ b.toNat % 16 = 0)

/-- The k-th byte holds code 2k in bits 7:4 and code 2k + 1, or 0, in bits 3:0. Derived from R46, R47, R61.
-/
def Obligations.ByteKHoldsCodes2kAnd2kPlus1 : Prop :=
  ∀ (cfg : Config) (xs : List Int) (pv : Int) (idx : StepIndex) (k : Nat) (b : Byte),
    (encodeBuffer cfg xs pv idx).bytes[k]? = some b →
    (encodeCodes cfg pv idx xs)[2 * k]? = some (b.extractLsb' 4 4) ∧
    ((encodeCodes cfg pv idx xs)[2 * k + 1]?).getD 0 = b.extractLsb' 0 4

/-- Splitting a call keeps codes and final state; bytes agree after an even first part, shift by a nibble
after an odd one. Formalises R177. (d) says that the bytes differ in general: they do whenever some code of
the second part is not 0. -/
def Obligations.StreamingKeepsTheAdaptiveTrajectory : Prop :=
  (∀ (cfg : Config) (xs ys : List Int) (pv : Int) (idx : StepIndex),
    let e := encodeBuffer cfg (xs ++ ys) pv idx
    let e1 := encodeBuffer cfg xs pv idx
    let e2 := encodeBuffer cfg ys e1.pv e1.idx
    (e2.pv = e.pv ∧ e2.idx = e.idx) ∧
    encodeCodes cfg pv idx (xs ++ ys) = encodeCodes cfg pv idx xs ++ encodeCodes cfg e1.pv e1.idx ys ∧
    (xs.length % 2 = 0 → e1.bytes ++ e2.bytes = e.bytes) ∧
    (xs.length % 2 = 1 →
      (∃ c, (encodeCodes cfg pv idx xs).getLast? = some c ∧ e1.bytes.getLast? = some (packByte c 0)) ∧
      (∀ (j : Nat) (c : Code), (encodeCodes cfg e1.pv e1.idx ys)[j]? = some c →
        (codesOfBytes e.bytes)[xs.length + j]? = some c ∧ (codesOfBytes e2.bytes)[j]? = some c ∧
        (codesOfBytes (e1.bytes ++ e2.bytes))[xs.length + 1 + j]? = some c) ∧
      ((∃ c ∈ encodeCodes cfg e1.pv e1.idx ys, c ≠ 0) → e1.bytes ++ e2.bytes ≠ e.bytes) ∧
      e1.bytes.length + e2.bytes.length = (xs.length + 1) / 2 + (ys.length + 1) / 2 ∧
      (ys.length % 2 = 1 → e1.bytes.length + e2.bytes.length = e.bytes.length + 1) ∧
      (ys.length % 2 = 0 → e1.bytes.length + e2.bytes.length = e.bytes.length))) ∧
  (∀ (cfg : Config) (pv : Int) (idx : StepIndex), cfg.Admissible → PvInRange cfg pv →
    ∃ xs ys : List Int, xs.length % 2 = 1 ∧ ys.length % 2 = 0 ∧ ys ≠ [] ∧ (∀ x ∈ xs ++ ys, isS32 x = true) ∧
      let e := encodeBuffer cfg (xs ++ ys) pv idx
      let e1 := encodeBuffer cfg xs pv idx
      let e2 := encodeBuffer cfg ys e1.pv e1.idx
      (e1.bytes ++ e2.bytes).length = e.bytes.length ∧ e1.bytes ++ e2.bytes ≠ e.bytes) ∧
  ∀ (cfg : Config) (bytes : List Byte) (pv : Int) (idx : StepIndex) (k n : Nat),
    2 * k ≤ n → n ≤ 2 * bytes.length →
    ∃ d d1 d2, decodeBuffer cfg bytes pv idx n = some d ∧ decodeBuffer cfg bytes pv idx (2 * k) = some d1 ∧
      decodeBuffer cfg (bytes.drop k) d1.pv d1.idx (n - 2 * k) = some d2 ∧
      d.samples = d1.samples ++ d2.samples ∧ d.pv = d2.pv ∧ d.idx = d2.idx

/-- Encoding no samples and decoding a count of 0 change nothing. Formalises R175. -/
def Obligations.EmptyCallsDoNothing : Prop :=
  ∀ (cfg : Config) (pv : Int) (idx : StepIndex) (bytes : List Byte),
    encodeBuffer cfg [] pv idx = { bytes := [], pv := pv, idx := idx } ∧
    decodeBuffer cfg bytes pv idx 0 = some { samples := [], pv := pv, idx := idx }

/-- Round trip: the decoder reproduces the encoder's predictions exactly and ends in its state. Formalises
R181. -/
def Obligations.DecodingReproducesThePredictions : Prop :=
  ∀ (cfg : Config) (xs : List Int) (pv : Int) (idx : StepIndex),
    let e := encodeBuffer cfg xs pv idx
    decodeBuffer cfg e.bytes pv idx xs.length =
      some { samples := predictions cfg pv idx xs, pv := e.pv, idx := e.idx }

/-- The error at each sample is at most (step >> 2) + 1 without slope overload, and d - vpdiff with it.
Formalises R182. -/
def Obligations.RoundTripErrorBounds : Prop :=
  ∀ (cfg : Config) (xs : List Int) (x pv : Int) (idx : StepIndex), cfg.Admissible → PvInRange cfg pv →
    (∀ y ∈ xs, PvInRange cfg y) → PvInRange cfg x →
    let before := encodeBuffer cfg xs pv idx
    let q := (encodeBuffer cfg (xs ++ [x]) pv idx).pv
    let step := cfg.stepTable before.idx
    let d := (x - before.pv).natAbs
    let full := step + step >>> 1 + step >>> 2 + step >>> 3
    (d < 2 * step → (x - q).natAbs ≤ step >>> 2 + 1) ∧
    (2 * step ≤ d → magOf (encStep cfg before.pv before.idx x).code = 7 ∧ (x - q).natAbs ≤ d - full ∧
      (PvInRange cfg (if x < before.pv then before.pv - full else before.pv + full) →
        (x - q).natAbs = d - full))

/-- Every byte sequence decodes, and every sample lies within the saturation bounds. Formalises R183. -/
def Obligations.GarbageDecodesWithinTheBounds : Prop :=
  ∀ (cfg : Config) (bytes : List Byte) (xs : List Int) (pv : Int) (idx : StepIndex) (n : Nat),
    cfg.Admissible → PvInRange cfg pv →
    (n ≤ 2 * bytes.length → ∃ d, decodeBuffer cfg bytes pv idx n = some d ∧ d.samples.length = n ∧
      (∀ x ∈ d.samples, PvInRange cfg x) ∧ PvInRange cfg d.pv) ∧
    PvInRange cfg (encodeBuffer cfg xs pv idx).pv

/-- decode_buffer is not defined for more codes than the bytes hold. Derived from R171, R214. That the call
answers none is the model's form of the refusal that both rules name (log entry 12, DEDUCED). -/
def Obligations.CountAboveTheBytesIsRefused : Prop :=
  ∀ (cfg : Config) (bytes : List Byte) (pv : Int) (idx : StepIndex) (n : Nat), 2 * bytes.length < n →
    decodeBuffer cfg bytes pv idx n = none

/-- Hazard: DEC.PAIR on a padded byte moves the state by one code 0 beyond DEC.HIGH. Formalises R225. -/
def Obligations.PadNibbleMovesTheDecoder : Prop :=
  ∀ (c : Code) (s : State),
    ∃ t u r r', exec (.decHigh (packByte c 0).toNat) s = .next t ∧
      exec (.decPair (packByte c 0).toNat) s = .next u ∧
      t.responses = s.responses ++ [r] ∧ u.responses = s.responses ++ [r'] ∧ r.d0 = r'.d0 ∧
      u.decPv = clamp (t.decPv + (device.stepTable t.dec.idx >>> 3 : Nat)) device.pvMin device.pvMax ∧
      u.dec.idx.val = t.dec.idx.val - 1 ∧ t.enc = s.enc ∧ u.enc = s.enc

/-- Hazard: a nibble pending at ENC.LDST pairs with the first code of the new stream. Formalises R224. -/
def Obligations.LoadWhilePendingMixesStreams : Prop :=
  ∀ (pv x : Int) (idx : Nat) (s : State), s.enc.phase = true →
    let code := (encStep device (clamp pv device.pvMin device.pvMax) (indexOperand idx) x).code
    ∃ t u r0 r1, exec (.encLdst pv idx) s = .next t ∧ exec (.encSmp x) t = .next u ∧
      t.enc.phase = true ∧ t.enc.hold = s.enc.hold ∧ u.responses = s.responses ++ [r0, r1] ∧
      r1 = { ok := true, n := 1, d1 := 0, d0 := BitVec.ofNat 32 (s.enc.hold.toNat * 16 + code.toNat) } ∧
      u.enc.phase = false ∧ u.enc.hold = 0
end

