-- ==== Sys2Proof/Laws/Config.lean ====
section
/-! SUPPORT. The device's configuration meets 00_scope.md R6, and no admissible configuration is shut out. -/

namespace Sys2Proof

theorem Config.clipStep_mem (x : Nat) : 1 ≤ clipStep x ∧ clipStep x ≤ 2147483647 := by
  unfold clipStep; omega

theorem Config.clipStep_of_mem {x : Nat} (h1 : 1 ≤ x) (h2 : x ≤ 2147483647) : clipStep x = x := by
  unfold clipStep; omega

theorem Config.runningMax_mem (f : Nat → Nat) (i : Nat) :
    1 ≤ runningMax f i ∧ runningMax f i ≤ 2147483647 := by
  induction i with
  | zero => exact clipStep_mem _
  | succ i ih => have := clipStep_mem (f (i + 1)); simp only [runningMax]; omega

theorem Config.runningMax_mono (f : Nat → Nat) {i j : Nat} (h : i ≤ j) : runningMax f i ≤ runningMax f j := by
  induction h with
  | refl => exact le_rfl
  | step _ ih => exact ih.trans (le_max_left _ _)

/-- Step sizes that are in range and non-decreasing up to `i` are left as they are. -/
theorem Config.runningMax_of_admissible (f : Nat → Nat) (i : Nat)
    (hf : ∀ k ≤ i, 1 ≤ f k ∧ f k ≤ 2147483647) (hm : ∀ k < i, f k ≤ f (k + 1)) : runningMax f i = f i := by
  induction i with
  | zero => exact clipStep_of_mem (hf 0 le_rfl).1 (hf 0 le_rfl).2
  | succ i ih =>
    have hi := ih (fun k hk => hf k (by omega)) (fun k hk => hm k (by omega))
    have hc := clipStep_of_mem (hf (i + 1) le_rfl).1 (hf (i + 1) le_rfl).2
    have := hm i (by omega)
    simp only [runningMax, hi, hc]; omega

/-- Whatever the free numbers are, the configuration made from them meets 00_scope.md R6. -/
theorem Config.constrain_admissible (f : Nat → Nat) (lo hi : Int) : (constrain f lo hi).Admissible := by
  refine ⟨fun i => runningMax_mem f i.val, fun i j h => runningMax_mono f h, ?_, ?_⟩ <;>
    simp only [constrain] <;> omega

/-- Every admissible configuration arises from some free numbers, namely its own. -/
theorem Config.constrain_of_admissible (cfg : Config) (h : cfg.Admissible) :
    constrain (fun k => cfg.stepTable ⟨min k 88, by omega⟩) cfg.pvMin cfg.pvMax = cfg := by
  obtain ⟨hs, hm, hlo, hhi⟩ := h
  obtain ⟨t, lo, hi⟩ := cfg
  simp only [constrain, Config.mk.injEq]
  refine ⟨funext fun i => ?_, by simp only at hlo; omega, by simp only at hhi; omega⟩
  have hi : (⟨min i.val 88, by omega⟩ : StepIndex) = i := Fin.ext (by have := i.isLt; simp only; omega)
  rw [runningMax_of_admissible _ _ (fun k _ => hs _)
    (fun k hk => hm _ _ (Fin.mk_le_mk.mpr (by omega))), hi]

/-- The modelled device meets 00_scope.md R6. -/
theorem Machine.device_admissible : Machine.device.Admissible := Config.constrain_admissible _ _ _

end Sys2Proof
end

