-- ==== Sys2Proof/Laws/Decode.lean ====
section
/-! SUPPORT. The fields of a command word, read back from the word made of them (30_encoding.md R63, R67). -/

namespace Sys2Proof

/-- A command word is the integer `op * 2^39 + idx * 2^32 + data` (30_encoding.md R63). -/
theorem commandWordOf_toNat (op : BitVec 4) (idx : BitVec 7) (data : Field32) :
    (commandWordOf op idx data).toNat = op.toNat * 2 ^ 39 + idx.toNat * 2 ^ 32 + data.toNat := by
  have hd := data.isLt
  have hi := idx.isLt
  unfold commandWordOf
  rw [BitVec.toNat_append, BitVec.toNat_append, ← Nat.shiftLeft_add_eq_or_of_lt (by omega),
    ← Nat.shiftLeft_add_eq_or_of_lt (by omega)]
  simp only [Nat.shiftLeft_eq]; omega

@[simp] theorem opField_commandWordOf (op : BitVec 4) (idx : BitVec 7) (data : Field32) :
    opField (commandWordOf op idx data) = op := by
  apply BitVec.eq_of_toNat_eq
  have := op.isLt; have := idx.isLt; have := data.isLt
  simp only [opField, BitVec.extractLsb'_toNat, commandWordOf_toNat, Nat.shiftRight_eq_div_pow]; omega

@[simp] theorem idxField_commandWordOf (op : BitVec 4) (idx : BitVec 7) (data : Field32) :
    idxField (commandWordOf op idx data) = idx := by
  apply BitVec.eq_of_toNat_eq
  have := op.isLt; have := idx.isLt; have := data.isLt
  simp only [idxField, BitVec.extractLsb'_toNat, commandWordOf_toNat, Nat.shiftRight_eq_div_pow]; omega

@[simp] theorem dataField_commandWordOf (op : BitVec 4) (idx : BitVec 7) (data : Field32) :
    dataField (commandWordOf op idx data) = data := by
  apply BitVec.eq_of_toNat_eq
  have := op.isLt; have := idx.isLt; have := data.isLt
  simp only [dataField, BitVec.extractLsb'_toNat, commandWordOf_toNat, Nat.shiftRight_eq_div_pow]; omega

@[simp] theorem byteField_commandWordOf (op : BitVec 4) (idx : BitVec 7) (data : Field32) :
    byteField (commandWordOf op idx data) = data.extractLsb' 0 8 := by
  apply BitVec.eq_of_toNat_eq
  have := op.isLt; have := idx.isLt; have := data.isLt
  simp only [byteField, BitVec.extractLsb'_toNat, commandWordOf_toNat, Nat.shiftRight_eq_div_pow]; omega

@[simp] theorem codeField_commandWordOf (op : BitVec 4) (idx : BitVec 7) (data : Field32) :
    codeField (commandWordOf op idx data) = data.extractLsb' 0 4 := by
  apply BitVec.eq_of_toNat_eq
  have := op.isLt; have := idx.isLt; have := data.isLt
  simp only [codeField, BitVec.extractLsb'_toNat, commandWordOf_toNat, Nat.shiftRight_eq_div_pow]; omega

end Sys2Proof
end

