-- ==== Sys2Proof/Laws/State.lean ====
section
/-! SUPPORT. One lemma per field per update of State, all true by rfl. -/

namespace Sys2Proof.Machine

variable (s : State) (pv : Int) (idx : StepIndex) (phase : Bool) (hold : Code) (r : Response)

@[simp] theorem State.writeEnc_enc_pv : (s.writeEnc pv idx).enc.pv = fromS32 pv := rfl
@[simp] theorem State.writeEnc_enc_idx : (s.writeEnc pv idx).enc.idx = idx := rfl
@[simp] theorem State.writeEnc_enc_phase : (s.writeEnc pv idx).enc.phase = s.enc.phase := rfl
@[simp] theorem State.writeEnc_enc_hold : (s.writeEnc pv idx).enc.hold = s.enc.hold := rfl
@[simp] theorem State.writeEnc_dec : (s.writeEnc pv idx).dec = s.dec := rfl
@[simp] theorem State.writeEnc_input : (s.writeEnc pv idx).input = s.input := rfl
@[simp] theorem State.writeEnc_responses : (s.writeEnc pv idx).responses = s.responses := rfl

@[simp] theorem State.writePending_enc_pv : (s.writePending phase hold).enc.pv = s.enc.pv := rfl
@[simp] theorem State.writePending_enc_idx : (s.writePending phase hold).enc.idx = s.enc.idx := rfl
@[simp] theorem State.writePending_enc_phase : (s.writePending phase hold).enc.phase = phase := rfl
@[simp] theorem State.writePending_enc_hold : (s.writePending phase hold).enc.hold = hold := rfl
@[simp] theorem State.writePending_dec : (s.writePending phase hold).dec = s.dec := rfl
@[simp] theorem State.writePending_input : (s.writePending phase hold).input = s.input := rfl
@[simp] theorem State.writePending_responses : (s.writePending phase hold).responses = s.responses := rfl

@[simp] theorem State.writeDec_enc : (s.writeDec pv idx).enc = s.enc := rfl
@[simp] theorem State.writeDec_dec_pv : (s.writeDec pv idx).dec.pv = fromS32 pv := rfl
@[simp] theorem State.writeDec_dec_idx : (s.writeDec pv idx).dec.idx = idx := rfl
@[simp] theorem State.writeDec_input : (s.writeDec pv idx).input = s.input := rfl
@[simp] theorem State.writeDec_responses : (s.writeDec pv idx).responses = s.responses := rfl

@[simp] theorem State.respond_enc : (s.respond r).enc = s.enc := rfl
@[simp] theorem State.respond_dec : (s.respond r).dec = s.dec := rfl
@[simp] theorem State.respond_input : (s.respond r).input = s.input := rfl
@[simp] theorem State.respond_responses : (s.respond r).responses = s.responses ++ [r] := rfl

@[simp] theorem resetEvent_enc : (resetEvent s).enc = EncUnit.reset := rfl
@[simp] theorem resetEvent_dec : (resetEvent s).dec = DecUnit.reset := rfl
@[simp] theorem resetEvent_input : (resetEvent s).input = s.input := rfl
@[simp] theorem resetEvent_responses : (resetEvent s).responses = s.responses := rfl

@[simp] theorem State.reset_enc : State.reset.enc = EncUnit.reset := rfl
@[simp] theorem State.reset_dec : State.reset.dec = DecUnit.reset := rfl
@[simp] theorem State.reset_input : State.reset.input = [] := rfl
@[simp] theorem State.reset_responses : State.reset.responses = [] := rfl

end Sys2Proof.Machine
end

