-- ==== Sys2Proof/Laws/Ops.lean ====
section
/-! SUPPORT. What each shared operation on the state can do, said once: its response, the registers it
leaves and the ones it writes. -/

namespace Sys2Proof.Machine

theorem device_pv_bounds : -2147483648 ≤ device.pvMin ∧ device.pvMin ≤ 0 ∧ 0 ≤ device.pvMax ∧
    device.pvMax ≤ 2147483647 :=
  have h := device_admissible
  ⟨h.2.2.1.1, h.2.2.1.2, h.2.2.2.1, h.2.2.2.2⟩

/-- A value within the device's bounds survives being written to a register and read back. -/
theorem toS32_fromS32_of_inRange {v : Int} (h : PvInRange device v) : toS32 (fromS32 v) = v := by
  have := device_pv_bounds
  exact toS32_fromS32 (by have := h.1; omega) (by have := h.2; omega)

theorem clamp_inRange (v : Int) : PvInRange device (clamp v device.pvMin device.pvMax) :=
  have h := device_pv_bounds
  clamp_mem (by omega)

theorem updatePred_inRange (pv : Int) (sign : Bool) (v : Nat) : PvInRange device (updatePred device pv sign v) :=
  clamp_inRange _

/-- Emitting a code with none pending: it is held, and the response has no result. -/
theorem emitCode_first {s : State} (h : s.enc.phase = false) (c : Code) :
    emitCode s c = (s.writePending true c).respond respNone := by
  simp [emitCode, h]

/-- Emitting a code with one pending: the pair is the one result, and none is pending any more. -/
theorem emitCode_second {s : State} (h : s.enc.phase = true) (c : Code) :
    emitCode s c = (s.writePending false 0).respond (respOne (zextByte (packByte s.enc.hold c))) := by
  simp [emitCode, h]

/-- Flushing with none pending: nothing but the response. -/
theorem flushCode_empty {s : State} (h : s.enc.phase = false) : flushCode s = s.respond respNone := by
  simp [flushCode, h]

/-- Flushing with one pending: its byte has low nibble 0, and none is pending any more. -/
theorem flushCode_pending {s : State} (h : s.enc.phase = true) :
    flushCode s = (s.writePending false 0).respond (respOne (zextByte (packByte s.enc.hold 0))) := by
  simp [flushCode, h]

/-- The encoder half of `emitCode`: what it leaves alone. -/
theorem emitCode_frame (s : State) (c : Code) : (emitCode s c).enc.pv = s.enc.pv ∧
    (emitCode s c).enc.idx = s.enc.idx ∧ (emitCode s c).dec = s.dec ∧ (emitCode s c).input = s.input := by
  unfold emitCode; split <;> simp

/-- What `flushCode` leaves alone. -/
theorem flushCode_frame (s : State) : (flushCode s).enc.pv = s.enc.pv ∧
    (flushCode s).enc.idx = s.enc.idx ∧ (flushCode s).dec = s.dec ∧ (flushCode s).input = s.input := by
  unfold flushCode; split <;> simp

/-- What decoding one code writes, answers and leaves alone. -/
theorem decodeOne_spec (cfg : Config) (c : Code) (s : State) :
    decodeOne cfg c s = { s with
      dec := { pv := fromS32 (decStep cfg s.decPv s.dec.idx c).pv, idx := (decStep cfg s.decPv s.dec.idx c).idx },
      responses := s.responses ++ [respOne (fromS32 (decStep cfg s.decPv s.dec.idx c).sample)] } := rfl

/-- The emitted sample of a decode step is the new predicted value (42_decoder.md R130). -/
@[simp] theorem decStep_sample (cfg : Config) (pv : Int) (idx : StepIndex) (c : Code) :
    (decStep cfg pv idx c).sample = (decStep cfg pv idx c).pv := rfl

theorem decStep_inRange (pv : Int) (idx : StepIndex) (c : Code) : PvInRange device (decStep device pv idx c).pv :=
  updatePred_inRange _ _ _

theorem encStep_inRange (pv : Int) (idx : StepIndex) (x : Int) : PvInRange device (encStep device pv idx x).pv :=
  updatePred_inRange _ _ _

/-- What a step can do: idle, reset, or the instruction of the next item. -/
theorem step_cases (s : State) :
    (s.input = [] ∧ step s = .next s) ∨
    (∃ rest, s.input = .reset :: rest ∧ step s = .next (resetEvent { s with input := rest })) ∨
    (∃ e rest, s.input = .present e :: rest ∧ step s = exec (decode e) { s with input := rest }) := by
  unfold step
  split <;> rename_i h
  · exact .inl ⟨h, rfl⟩
  · exact .inr (.inl ⟨_, h, rfl⟩)
  · exact .inr (.inr ⟨_, _, h, rfl⟩)

end Sys2Proof.Machine
end

