-- ==== Sys2Proof/Tests/Slice0.lean ====
section
/-! SUPPORT. Tests: ill-formed terms, decoding of words written out from 30_encoding.md, vectors of 95_test_vectors.md
(its identifiers stand in the docstrings), and a witness for the hypotheses of each statement that has some.
The vectors are computed with the tables T-SYN and T-BIG of 95_test_vectors.md, because the device's own table
is free. -/

namespace Sys2Proof.Tests

open Sys2Proof Sys2Proof.Machine

/-- Table T-SYN of 95_test_vectors.md with the default bounds. -/
def synCfg : Config where
  stepTable i := 16 * (i.val + 1)
  pvMin := -2147483648
  pvMax := 2147483647

/-- Table T-BIG of 95_test_vectors.md with the default bounds. -/
def bigCfg : Config where
  stepTable i := 2147483559 + i.val
  pvMin := -2147483648
  pvMax := 2147483647

/-- A state with the given encoder registers. -/
def encState (pv : Int) (idx : StepIndex) (phase : Bool) (hold : Code) : State :=
  { State.reset with enc := { pv := fromS32 pv, idx := idx, phase := phase, hold := hold } }

/-- A state with the given decoder registers. -/
def decState (pv : Int) (idx : StepIndex) : State :=
  { State.reset with dec := { pv := fromS32 pv, idx := idx } }

/-- The state that an outcome goes on to. -/
def after : Outcome → Option State
  | .next t => some t
  | _ => none

/-- The response words of a state, oldest first. -/
def words (s : State) : List ResponseWord := s.responses.map responseWord

/-! Ill-formed terms: each check of WellFormed.lean refuses one. -/

theorem test_illFormed_encLdst_pv_high : (Instr.encLdst 2147483648 0).wellFormed = false := by decide
theorem test_illFormed_encLdst_pv_low : (Instr.encLdst (-2147483649) 0).wellFormed = false := by decide
theorem test_illFormed_encLdst_idx : (Instr.encLdst 0 128).wellFormed = false := by decide
theorem test_illFormed_encSmp_high : (Instr.encSmp 2147483648).wellFormed = false := by decide
theorem test_illFormed_encSmp_low : (Instr.encSmp (-2147483649)).wellFormed = false := by decide
theorem test_illFormed_lutStep : (Instr.lutStep 128).wellFormed = false := by decide
theorem test_illFormed_lutAdj : (Instr.lutAdj 16).wellFormed = false := by decide
theorem test_illFormed_decLdst_pv_high : (Instr.decLdst 2147483648 0).wellFormed = false := by decide
theorem test_illFormed_decLdst_pv_low : (Instr.decLdst (-2147483649) 0).wellFormed = false := by decide
theorem test_illFormed_decLdst_idx : (Instr.decLdst 0 128).wellFormed = false := by decide
theorem test_illFormed_decPair : (Instr.decPair 256).wellFormed = false := by decide
theorem test_illFormed_decHigh : (Instr.decHigh 256).wellFormed = false := by decide

/-! Decoding, one word for each constructor. The words of the commands are those of 95_test_vectors.md sections 3.6 and
3.7, the bits of a nibble code those of 30_encoding.md R60. Width 48 is 43 bits and width 8 is 4 bits, in whole bytes. -/

/-- K1. -/
theorem test_decode_encLdst : decodeTableWord 48 0x0FFFFFFFFFB = some (.encLdst (-5) 127) := by decide
/-- K3. -/
theorem test_decode_encRdst : decodeTableWord 48 0x10000000000 = some .encRdst := by decide
/-- K5. -/
theorem test_decode_encSmp : decodeTableWord 48 0x180FFFFFFCE = some (.encSmp (-50)) := by decide
/-- K9: the data field is ignored. -/
theorem test_decode_encEnd : decodeTableWord 48 0x205FFFFFFFF = some .encEnd := by decide
/-- K12. -/
theorem test_decode_lutStep : decodeTableWord 48 0x35900000000 = some (.lutStep 89) := by decide
/-- K17: bits 31:4 are ignored. -/
theorem test_decode_lutAdj : decodeTableWord 48 0x380FFFFFFF4 = some (.lutAdj 4) := by decide
/-- K18. -/
theorem test_decode_decLdst : decodeTableWord 48 0x4FFFFFFFFFB = some (.decLdst (-5) 127) := by decide
/-- K19. -/
theorem test_decode_decRdst : decodeTableWord 48 0x50000000000 = some .decRdst := by decide
/-- K23: bits 31:8 are ignored. -/
theorem test_decode_decPair : decodeTableWord 48 0x580ABCDEF4B = some (.decPair 0x4B) := by decide
/-- K24. -/
theorem test_decode_decHigh : decodeTableWord 48 0x6000000004B = some (.decHigh 0x4B) := by decide
/-- Z1 to Z7. -/
theorem test_decode_unassigned :
    decodeTableWord 48 0x00000000000 = some .unassigned0 ∧ decodeTableWord 48 0x07FFFFFFFFF = some .unassigned0 ∧
    decodeTableWord 48 0x2830000004D = some .unassigned5 ∧ decodeTableWord 48 0x4000000004B = some .unassigned8 ∧
    decodeTableWord 48 0x68000000000 = some .unassignedD ∧ decodeTableWord 48 0x75800000001 = some .unassignedE ∧
    decodeTableWord 48 0x7FFFFFFFFFF = some .unassignedF := by decide
/-- Sign 0, magnitudes 0 to 7. -/
theorem test_decode_codes_up :
    decodeTableWord 8 0b0000 = some .code0 ∧ decodeTableWord 8 0b0001 = some .code1 ∧
    decodeTableWord 8 0b0010 = some .code2 ∧ decodeTableWord 8 0b0011 = some .code3 ∧
    decodeTableWord 8 0b0100 = some .code4 ∧ decodeTableWord 8 0b0101 = some .code5 ∧
    decodeTableWord 8 0b0110 = some .code6 ∧ decodeTableWord 8 0b0111 = some .code7 := by decide
/-- Sign 1, magnitudes 0 to 7. -/
theorem test_decode_codes_down :
    decodeTableWord 8 0b1000 = some .code8 ∧ decodeTableWord 8 0b1001 = some .code9 ∧
    decodeTableWord 8 0b1010 = some .code10 ∧ decodeTableWord 8 0b1011 = some .code11 ∧
    decodeTableWord 8 0b1100 = some .code12 ∧ decodeTableWord 8 0b1101 = some .code13 ∧
    decodeTableWord 8 0b1110 = some .code14 ∧ decodeTableWord 8 0b1111 = some .code15 := by decide
/-- A command word has no bit 43 and a nibble code no bit 4: refused by name. -/
theorem test_decode_tooWide : decodeBits 48 0x80000000000 = .error .commandWordTooWide ∧
    decodeBits 8 0x10 = .error .nibbleTooWide := ⟨rfl, rfl⟩
/-- The emulated instructions of 30_encoding.md R78 are the words of `ENC.LDST 0, 0` and `DEC.LDST 0, 0`. -/
theorem test_init_words : encodedBits (encode encInit) = 0x08000000000 ∧
    encodedBits (encode decInit) = 0x48000000000 := by decide

/-! The shared functions. -/

/-- Q9, Q23, Q35. -/
theorem test_quantize : quantize 13 7 = { delta := 7, vpdiff := 11 } ∧ quantize 0 1 = { delta := 3, vpdiff := 0 } ∧
    quantize 4294967295 2147483647 = { delta := 7, vpdiff := 4026531836 } := by decide
/-- V10 and V8. -/
theorem test_reconstruct : reconstruct 3 32767 = 28669 ∧ reconstruct 5 176 = 242 := by decide
/-- U3, U6, U7. -/
theorem test_updatePred : updatePred synCfg 2147483638 false 4095 = 2147483647 ∧
    updatePred synCfg (-2147483648) true 4026531836 = -2147483648 ∧
    updatePred synCfg 2147483647 true 4026531676 = -1879048029 := by decide
/-- X1, X12, X13, X15. -/
theorem test_updateIndex : updateIndex 0 0 = 0 ∧ updateIndex 87 4 = 88 ∧ updateIndex 88 7 = 88 ∧
    updateIndex 88 0 = 87 := by decide

/-! The commands, each on one small state. -/

/-- K1: the operand index 127 is replaced by 88, and a pending nibble stays. -/
theorem test_encLdst : (encLdst synCfg (-5) 127 (encState 30 8 true 7)).enc = (encState (-5) 88 true 7).enc ∧
    words (encLdst synCfg (-5) 127 (encState 30 8 true 7)) = [0x40000000000000000] := by decide
/-- 40_step_size_model.md R95 with bounds narrower than 32 bits: the loaded value is clamped. -/
theorem test_encLdst_clamps :
    (encLdst { synCfg with pvMin := -32768, pvMax := 32767 } 40000 3 State.reset).encPv = 32767 := by decide
/-- K3. -/
theorem test_encRdst :
    (after (step ((encState (-110) 22 false 0).withFetchWord 48 0x10000000000))).map words
      = some [0x600000016FFFFFF92] := by decide
/-- K4. -/
theorem test_encSmp_first : (encSmp synCfg 100 State.reset).enc = (encState 30 8 true 7).enc ∧
    words (encSmp synCfg 100 State.reset) = [0x40000000000000000] := by decide
/-- K5. -/
theorem test_encSmp_second : (encSmp synCfg (-50) (encState 30 8 true 7)).enc = (encState (-60) 7 false 0).enc ∧
    words (encSmp synCfg (-50) (encState 30 8 true 7)) = [0x5000000000000007A] := by decide
/-- W1 for T-BIG, line 1: the second code is 8, and the prediction goes back to 0. -/
theorem test_encStep_big : encStep bigCfg 268435444 0 1000 = { pv := 0, idx := 0, code := 8 } := by decide
/-- K7. -/
theorem test_encEnd_pending :
    (after (step ((encState 180 15 true 7).withFetchWord 48 0x20000000000))).map (fun t => (t.enc, words t))
      = some ((encState 180 15 false 0).enc, [0x50000000000000070]) := by decide
/-- K8. -/
theorem test_encEnd_empty :
    (after (step ((encState 180 15 false 0).withFetchWord 48 0x20000000000))).map (fun t => (t.enc, words t))
      = some ((encState 180 15 false 0).enc, [0x40000000000000000]) := by decide
/-- K10. -/
theorem test_lutStep : words (lutStep synCfg 0 State.reset) = [0x50000000000000010] := by decide
/-- K13: 127 reads entry 88. -/
theorem test_lutStep_above : words (lutStep synCfg 127 State.reset) = [0x50000000000000590] := by decide
/-- K14. -/
theorem test_lutAdj_negative :
    (after (step (State.reset.withFetchWord 48 0x38000000000))).map words = some [0x500000000FFFFFFFF] := by decide
/-- K16. -/
theorem test_lutAdj_twin :
    (after (step (State.reset.withFetchWord 48 0x3800000000C))).map words = some [0x50000000000000002] := by decide
/-- K18. -/
theorem test_decLdst : (decLdst synCfg (-5) 127 State.reset).dec = (decState (-5) 88).dec ∧
    words (decLdst synCfg (-5) 127 State.reset) = [0x40000000000000000] := by decide
/-- K19. -/
theorem test_decRdst :
    (after (step ((decState 1016 11).withFetchWord 48 0x50000000000))).map words = some [0x60000000B000003F8] := by
  decide
/-- K20: the second code uses the index that the first left. -/
theorem test_decPair : (decPair synCfg 0x4B (decState 1000 10)).dec = (decState 1016 11).dec ∧
    words (decPair synCfg 0x4B (decState 1000 10)) = [0x6000003F8000004AE] := by decide
/-- K22. -/
theorem test_decPair_down : (decPair synCfg 0xFF (decState 0 0)).dec = (decState (-300) 16).dec ∧
    words (decPair synCfg 0xFF (decState 0 0)) = [0x6FFFFFED4FFFFFFE2] := by decide
/-- K24. -/
theorem test_decHigh : (decHigh synCfg 0x4B (decState 1016 11)).dec = (decState 1232 13).dec ∧
    words (decHigh synCfg 0x4B (decState 1016 11)) = [0x500000000000004D0] := by decide
/-- Z3: nothing but the all-zero response. -/
theorem test_unassigned :
    (after (step ((encState 30 8 true 7).withFetchWord 48 0x2830000004D))).map (fun t => (t.enc, words t))
      = some ((encState 30 8 true 7).enc, [0]) := by decide
/-- Section 3.5 of 95_test_vectors.md, codes 0 to 7: the new predicted value and index from 1000 and 10. -/
theorem test_codes_up : [0x0, 0x1, 0x2, 0x3, 0x4, 0x5, 0x6, 0x7].map
    (fun c => ((decStep synCfg 1000 10 c).pv, (decStep synCfg 1000 10 c).idx)) =
    [(1022, 9), (1066, 9), (1110, 9), (1154, 9), (1198, 12), (1242, 14), (1286, 16), (1330, 18)] := by decide
/-- Section 3.5 of 95_test_vectors.md, codes 8 to 15. -/
theorem test_codes_down : [0x8, 0x9, 0xA, 0xB, 0xC, 0xD, 0xE, 0xF].map
    (fun c => ((decStep synCfg 1000 10 c).pv, (decStep synCfg 1000 10 c).idx)) =
    [(978, 9), (934, 9), (890, 9), (846, 9), (802, 12), (758, 14), (714, 16), (670, 18)] := by decide
/-- Section 3.5 of 95_test_vectors.md, last column: the sample that makes the encoder emit each code. -/
theorem test_codes_emitted : [1000, 1044, 1088, 1132, 1176, 1220, 1264, 1308,
      999, 956, 912, 868, 824, 780, 736, 692].map (fun x => (encStep synCfg 1000 10 x).code.toNat) =
    [0, 1, 2, 3, 4, 5, 6, 7, 8, 9, 10, 11, 12, 13, 14, 15] := by decide
/-- A reset event clears the registers and answers nothing (70_reset_and_hazards.md R220). -/
theorem test_reset_event :
    after (step { encState 30 8 true 7 with input := [.reset] }) = some State.reset := by decide
/-- Every kind of word runs as the first instruction after reset. -/
theorem test_first_instruction :
    step (State.reset.withFetchWord 48 0x18000000064) = .next (encSmp device 100 State.reset) ∧
    step (State.reset.withFetchWord 8 0xF) = .next (decodeOne device 15 State.reset) := ⟨rfl, rfl⟩

/-! The buffer functions. -/

/-- B7 and B8: an odd split gives other bytes. -/
theorem test_encodeBuffer :
    encodeBuffer synCfg [100, -50, 300, 320, -2000] 0 0 = { bytes := [0x7A, 0x72, 0xF0], pv := -110, idx := 22 } ∧
    encodeBuffer synCfg [320, -2000] 180 15 = { bytes := [0x2F], pv := -110, idx := 22 } := by decide
/-- B11 and B12: with the pad nibble there is a sixth sample. -/
theorem test_decodeBuffer :
    decodeBuffer synCfg [0x7A, 0x72, 0xF0] 0 0 5
      = some { samples := [30, -60, 180, 340, -110], pv := -110, idx := 22 } ∧
    decodeBuffer synCfg [0x7A, 0x72, 0xF0] 0 0 6
      = some { samples := [30, -60, 180, 340, -110, -64], pv := -64, idx := 21 } := by decide

/-! Witnesses: concrete states and operands that meet the hypotheses of each statement that has some, at the boundary
values of its clauses. -/

/-- T-SYN meets 00_scope.md R6. -/
theorem synCfg_admissible : synCfg.Admissible :=
  ⟨fun i => by simp only [synCfg]; have := i.isLt; omega,
    fun i j h => by simp only [synCfg]; have : i.val ≤ j.val := h; omega, by decide, by decide⟩

/-- A state with a zero Codec State meets the invariants, with a nibble pending or not. -/
theorem zero_inv (phase : Bool) (hold : Code) (h : phase = false → hold = 0) : (encState 0 0 phase hold).Inv := by
  have := device_pv_bounds
  refine ⟨⟨Nat.zero_le 88, Nat.zero_le 88⟩, ⟨?_, ?_⟩, h⟩
  all_goals (show PvInRange device 0; unfold PvInRange; omega)

theorem witness_stepRunsTheDecodedInstruction :
    ({ State.reset with input := [.present (.nibble 5), .reset] } : State).input = .present (.nibble 5) :: [.reset] ∧
    decodeTableWord 48 0x7FFFFFFFFFF = some .unassignedF ∧ decodeTableWord 8 0xF = some .code15 := by decide

theorem witness_resetEventClearsTheSixRegisters :
    ({ encState 30 8 true 7 with input := [.reset] } : State).input = .reset :: [] := rfl

theorem witness_idleStepKeepsTheState : (encState 30 8 true 7).input = [] := rfl

theorem witness_commandsRunInOrderOfArrival :
    ({ State.reset with input := [.present (.nibble 5), .present (.commandWord 0)] } : State).input
      = [Encoded.nibble 5, .commandWord 0].map .present := rfl

/-- Every operand at both ends of its range. -/
theorem witness_decodeOfEncodeIsTheInstruction :
    ∀ i ∈ [Instr.encLdst (-2147483648) 0, .encLdst 2147483647 127, .encSmp (-2147483648), .encSmp 2147483647,
      .lutStep 0, .lutStep 127, .lutAdj 0, .lutAdj 15, .decLdst (-2147483648) 127, .decLdst 2147483647 0, .decPair 0,
      .decPair 255, .decHigh 0, .decHigh 255], i.wellFormed = true := by decide

theorem witness_assemblerWordsAreAsTabulated :
    (∀ pv ∈ [(-2147483648 : Int), -1, 2147483647], -2 ^ 31 ≤ pv ∧ pv ≤ 2 ^ 31 - 1) ∧ (0 ≤ 127 ∧ 127 ≤ 127) ∧
    15 ≤ 15 ∧ 255 ≤ 255 := by decide

theorem witness_ignoredFieldsDoNotMatter :
    (0xFFFFFFF4#32).extractLsb' 0 4 = (0x4#32).extractLsb' 0 4 ∧
    (0xABCDEF4B#32).extractLsb' 0 8 = (0x4B#32).extractLsb' 0 8 ∧
    (0xABCDEF4B#32).extractLsb' 4 4 = (0x40#32).extractLsb' 4 4 := by decide

/-- Both ends of each of the eight intervals, for a step size of 16 (thresholds 4, 8, 12, 16, 20, 24, 28). -/
theorem witness_quantizerDecisionIntervals :
    [0, 3, 4, 7, 8, 11, 12, 15, 16, 19, 20, 23, 24, 27, 28, 4294967295].map (fun d => (quantize d 16).delta.toNat) =
      [0, 0, 1, 1, 2, 2, 3, 3, 4, 4, 5, 5, 6, 6, 7, 7] := by decide

/-- The clauses on small step sizes, at each size that they name. -/
theorem witness_quantizerSmallSteps :
    (quantize 0 1).delta = 3 ∧ (quantize 1 1).delta = 7 ∧ (quantize 0 2).delta = 1 ∧ (quantize 0 3).delta = 1 ∧
    (quantize 0 4).delta = 0 ∧ 4 >>> 3 = 0 ∧ 7 >>> 3 = 0 := by decide

theorem witness_quantizeAgreesWithReconstruct : 1 ≤ 1 ∧ 1 ≤ 2147483647 := by decide

/-- Overload at exactly twice the step size, and the last difference below it; magnitude 0 with the least step. -/
theorem witness_quantizationErrorBounds :
    1 ≤ 16 ∧ 2 * 16 ≤ 32 ∧ 31 < 2 * 16 ∧ (quantize 32 16).vpdiff = 30 ∧ (quantize 0 4).delta = 0 := by decide

theorem witness_intermediatesFitTheirWidths :
    ∀ x ∈ [(-2147483648 : Int), 2147483647], (-2 ^ 31 ≤ x ∧ x ≤ 2 ^ 31 - 1) ∧
      ∀ step ∈ [1, 2147483647], 1 ≤ step ∧ step ≤ 2 ^ 31 - 1 := by decide

/-- An exact sum at the upper bound, one above it, and an exact difference one below the lower bound. -/
theorem witness_predictionUpdateSaturates :
    synCfg.Admissible ∧ PvInRange synCfg (2147483646 + (1 : Nat)) ∧ synCfg.pvMax < 2147483647 + (1 : Nat) ∧
      -2147483648 - (1 : Nat) < synCfg.pvMin ∧ PvInRange synCfg (-2147483648) :=
  ⟨synCfg_admissible, by unfold PvInRange; decide, by decide, by decide, by unfold PvInRange; decide⟩

/-- Samples above, at and below the predicted value, the farthest near ones and the nearest of overload. -/
theorem witness_encodeStepApproachesTheSample :
    synCfg.Admissible ∧ PvInRange synCfg 0 ∧
    (∀ x ∈ [(31 : Int), 0, -31], (x - 0).natAbs < 2 * synCfg.stepTable 0 ∧ PvInRange synCfg x) ∧
    ¬ (32 - (0 : Int)).natAbs < 2 * synCfg.stepTable 0 ∧
    PvInRange synCfg (0 + (quantize 31 16).vpdiff) ∧ PvInRange synCfg (0 - (quantize 31 16).vpdiff) :=
  ⟨synCfg_admissible, by unfold PvInRange; decide, by unfold PvInRange; decide, by decide,
    by unfold PvInRange; decide, by unfold PvInRange; decide⟩

/-- ENC.SMP, ENC.END and a load: a state with no nibble pending and one with a nibble pending. -/
theorem witness_pendingNibble : (encState 0 0 false 0).enc.phase = false ∧ (encState 30 8 true 7).enc.phase = true :=
  ⟨rfl, rfl⟩

theorem witness_lutStepReadsTheStepTable : (0 : StepIndex) ≤ 88 ∧ (88 : StepIndex) ≤ 88 := by decide

theorem witness_decHighDecodesOnlyTheHighCode : 0x40 / 16 = 0x4F / 16 := by decide

theorem witness_unassignedNumbersAreRefusedAndGoOn :
    Instr.unassigned0 ∈ [Instr.unassigned0, .unassigned5, .unassigned8, .unassignedD, .unassignedE, .unassignedF] ∧
    Instr.unassignedF ∈ [Instr.unassigned0, .unassigned5, .unassigned8, .unassignedD, .unassignedE, .unassignedF] := by
  decide

theorem witness_bareCodeIsDecHighOfItsByte : 0 < 16 ∧ 15 < 16 := by decide

/-- A state with a nibble pending that meets the invariants and goes on. -/
theorem witness_invariantsKeptByEveryStep :
    (encState 0 0 true 7).Inv ∧ step (encState 0 0 true 7) = .next (encState 0 0 true 7) :=
  ⟨zero_inv true 7 (by decide), rfl⟩

/-- The same with a command: the sample is encoded, and its byte answered. -/
theorem witness_invariantsKeptByACommand :
    ((encState 0 0 true 7).withFetchWord 48 0x18000000064).Inv ∧
    ∃ t, step ((encState 0 0 true 7).withFetchWord 48 0x18000000064) = .next t ∧ t.responses.length = 1 :=
  ⟨zero_inv true 7 (by decide), encSmp device 100 (encState 0 0 true 7), rfl, rfl⟩

theorem witness_responsesKeepTheirShape :
    (∀ r ∈ (encRdst State.reset).responses, r.WellShaped) ∧
    step (encRdst State.reset) = .next (encRdst State.reset) := by
  refine ⟨fun r h => ?_, rfl⟩
  obtain rfl : r = respTwo EncUnit.reset.pv (zextIndex EncUnit.reset.idx) := by simpa [encRdst, State.encPv] using h
  unfold Response.WellShaped; decide

theorem witness_onlyNamedCommandsWriteARegister :
    exec .encRdst (encState 30 8 true 7) = .next (encRdst (encState 30 8 true 7)) := rfl

theorem witness_readsHaveNoSideEffects : (∃ idx, Instr.lutStep 127 = .lutStep idx) ∧ ∃ c, Instr.lutAdj 15 = .lutAdj c :=
  ⟨⟨127, rfl⟩, ⟨15, rfl⟩⟩

/-- States that differ in the other unit only, for both units; a table read; an unassigned number. -/
theorem witness_unitsDoNotInfluenceEachOther :
    unitOf (.encSmp 0) = .encoder ∧ (encState 0 0 false 0).enc = (decState 5 5).enc ∧
    (encState 0 0 false 0).dec ≠ (decState 5 5).dec ∧ unitOf (.decPair 0) = .decoder ∧
    (decState 0 0).dec = (encState 5 5 true 1).dec ∧ (decState 0 0).enc ≠ (encState 5 5 true 1).enc ∧
    unitOf (.lutStep 0) = .tables ∧ unitOf .unassignedF = .unassigned := by decide

theorem witness_pendingNibbleIsHidden : Instr.encLdst 0 0 ≠ .encEnd ∧ ∀ x, Instr.encLdst 0 0 ≠ .encSmp x :=
  ⟨by decide, fun _ h => by cases h⟩

theorem witness_savedStateCanBeLoadedBack : (encState 0 0 true 7).Inv := zero_inv true 7 (by decide)

theorem witness_encodeExpansionIsEncodeBuffer :
    (encState 0 0 false 0).Inv ∧ (encState 0 0 false 0).enc.phase = false := ⟨zero_inv false 0 (fun _ => rfl), rfl⟩

/-- The largest count that two bytes hold, and the smallest that they do not. -/
theorem witness_decodeExpansionIsDecodeBuffer :
    4 ≤ 2 * ([0x07, 0xF7] : List Byte).length ∧ 2 * ([0x07, 0xF7] : List Byte).length < 5 := by decide

theorem witness_encodedLengthAndPadding :
    ([1000] : List Int) = [1000] ∧ ([100, -50, 300] : List Int).length % 2 = 1 := by decide

/-- B7: the first byte, and the last one with the pad nibble. -/
theorem witness_byteKHoldsCodes2kAnd2kPlus1 :
    (encodeBuffer synCfg [100, -50, 300, 320, -2000] 0 0).bytes[0]? = some 0x7A ∧
    (encodeBuffer synCfg [100, -50, 300, 320, -2000] 0 0).bytes[2]? = some 0xF0 := by decide

/-- B8 to B10: first parts of even and odd length, second parts of both; and a decode count split at 0, inside
and at the end. -/
theorem witness_streamingKeepsTheAdaptiveTrajectory :
    ([100, -50] : List Int).length % 2 = 0 ∧ ([100, -50, 300] : List Int).length % 2 = 1 ∧
    ([-50] : List Int).length % 2 = 1 ∧ ([320, -2000] : List Int).length % 2 = 0 ∧
    ∀ k ∈ [0, 1, 2], 2 * k ≤ 4 ∧ 4 ≤ 2 * ([0x07, 0xF7] : List Byte).length := by decide

/-- B8: an odd first part, and a second part of even length whose first code, 2, is not 0; from a state in range. -/
theorem witness_streamingShiftsByANibble :
    synCfg.Admissible ∧ PvInRange synCfg 0 ∧ ([100, -50, 300] : List Int).length % 2 = 1 ∧
    (encodeCodes synCfg 180 15 [320, -2000])[0]? = some 2 ∧ (encodeCodes synCfg 180 15 [320, -2000])[1]? = some 15 ∧
    ∃ c ∈ encodeCodes synCfg 180 15 [320, -2000], c ≠ 0 :=
  ⟨synCfg_admissible, by unfold PvInRange; decide, by decide, by decide, by decide, by decide⟩

/-- From 0 with step size 16: the largest difference without slope overload and the smallest with it. -/
theorem witness_roundTripErrorBounds :
    synCfg.Admissible ∧ PvInRange synCfg 0 ∧ (∀ y ∈ ([] : List Int), PvInRange synCfg y) ∧
    (∀ x ∈ [(31 : Int), 32], PvInRange synCfg x) ∧ (31 - (encodeBuffer synCfg [] 0 0).pv).natAbs < 2 * 16 ∧
    2 * 16 ≤ (32 - (encodeBuffer synCfg [] 0 0).pv).natAbs ∧ PvInRange synCfg (0 + 30) :=
  ⟨synCfg_admissible, by unfold PvInRange; decide, by simp, by unfold PvInRange; decide, by decide, by decide,
    by unfold PvInRange; decide⟩

theorem witness_garbageDecodesWithinTheBounds :
    synCfg.Admissible ∧ PvInRange synCfg (-2147483648) ∧ 4 ≤ 2 * ([0xFF, 0xFF] : List Byte).length :=
  ⟨synCfg_admissible, by unfold PvInRange; decide, by decide⟩

theorem witness_countAboveTheBytesIsRefused : 2 * ([] : List Byte).length < 1 := by decide

theorem witness_loadWhilePendingMixesStreams : (encState 30 8 true 7).enc.phase = true := rfl

end Sys2Proof.Tests
end

section
/-! Proofs of the statements of 00_scope.md: what a step runs, and that every instruction completes with one
response. The lemmas on `decode`, `step` and `exec` are general, for the other families' proofs too. -/

namespace Sys2Proof

/-- A 32-bit field holds a signed 32-bit integer (30_encoding.md R65). -/
@[simp] theorem isS32_toS32 (u : Field32) : isS32 (toS32 u) = true := by
  simp [isS32, Machine.toS32_mem u]

/-- Every operand is a field of the word, so it lies in the range that the field's width gives. -/
theorem decodeCommand_wellFormed (cw : CommandWord) : (decodeCommand cw).wellFormed = true := by
  have hidx : (idxField cw).toNat ≤ 127 := Nat.le_of_lt_succ (idxField cw).isLt
  have hcode : (codeField cw).toNat ≤ 15 := Nat.le_of_lt_succ (codeField cw).isLt
  have hbyte : (byteField cw).toNat ≤ 255 := Nat.le_of_lt_succ (byteField cw).isLt
  unfold decodeCommand
  split <;> simp [Instr.wellFormed, hidx, hcode, hbyte]

theorem decodeNibble_wellFormed (c : Code) : (decodeNibble c).wellFormed = true := by
  revert c; decide

theorem decode_wellFormed (e : Encoded) : (decode e).wellFormed = true := by
  cases e with
  | commandWord cw => exact decodeCommand_wellFormed cw
  | nibble c => exact decodeNibble_wellFormed c

/-- An instruction read from the bits of a row is the decoding of the encoding that they make. -/
theorem encodedOfBits_of_decodeTableWord {nbits w : Nat} {i : Instr} (h : decodeTableWord nbits w = some i) :
    ∃ e, encodedOfBits nbits w = .ok e ∧ decode e = i := by
  cases he : encodedOfBits nbits w with
  | ok e => exact ⟨e, rfl, by simpa [decodeTableWord, decodeBits, he] using h⟩
  | error err => simp [decodeTableWord, decodeBits, he] at h

end Sys2Proof

namespace Sys2Proof.Machine

theorem step_of_present {s : State} {e : Encoded} {rest : List HostInput} (h : s.input = .present e :: rest) :
    step s = exec (decode e) { s with input := rest } := by
  simp [step, h]

theorem State.withFetchWord_of_ok {nbits w : Nat} {e : Encoded} (h : encodedOfBits nbits w = .ok e) (s : State) :
    s.withFetchWord nbits w = { s with input := .present e :: s.input } := by
  simp [State.withFetchWord, h]

/-- A response of a command that was performed: no result, one or two (30_encoding.md R70). -/
inductive Response.IsPerformed : Response → Prop where
  | none : IsPerformed respNone
  | one (d0 : Field32) : IsPerformed (respOne d0)
  | two (d0 d1 : Field32) : IsPerformed (respTwo d0 d1)

theorem Response.IsPerformed.ok {r : Response} (h : r.IsPerformed) : r.ok = true := by
  cases h <;> rfl

/-- `t` is `s` after a performed command, as seen at the two ports: nothing more was taken from the command
port, and exactly one response was added (00_scope.md R15). -/
def Performed (s t : State) : Prop :=
  t.input = s.input ∧ ∃ r, r.IsPerformed ∧ t.responses = s.responses ++ [r]

/-- Writing registers and then answering once. -/
theorem performed_respond {s u : State} {r : Response} (hr : r.IsPerformed) (hin : u.input = s.input)
    (hresp : u.responses = s.responses) : Performed s (u.respond r) :=
  ⟨hin, r, hr, by simp [hresp]⟩

theorem performed_emitCode {s u : State} (hin : u.input = s.input) (hresp : u.responses = s.responses)
    (c : Code) : Performed s (emitCode u c) := by
  cases hphase : u.enc.phase with
  | false => exact emitCode_first hphase c ▸ performed_respond .none hin hresp
  | true => exact emitCode_second hphase c ▸ performed_respond (.one _) hin hresp

theorem performed_flushCode (s : State) : Performed s (flushCode s) := by
  cases hphase : s.enc.phase with
  | false => exact flushCode_empty hphase ▸ performed_respond .none rfl rfl
  | true => exact flushCode_pending hphase ▸ performed_respond (.one _) rfl rfl

theorem performed_decodeOne (cfg : Config) (c : Code) (s : State) : Performed s (decodeOne cfg c s) :=
  performed_respond (.one _) rfl rfl

/-- An unassigned command number is refused with the all-zero response (30_encoding.md R71). -/
theorem exec_of_unassigned {i : Instr} (h : unitOf i = .unassigned) (s : State) :
    exec i s = .next (refuseCommand s) := by
  cases i with
  | unassigned0 | unassigned5 | unassigned8 | unassignedD | unassignedE | unassignedF => rfl
  | _ => cases h

/-- Every assigned command and every nibble code is performed, from every state (60_exceptions.md R200). -/
theorem exec_of_assigned {i : Instr} (h : unitOf i ≠ .unassigned) (s : State) :
    ∃ t, exec i s = .next t ∧ Performed s t := by
  cases i with
  | encLdst | decLdst => exact ⟨_, rfl, performed_respond .none rfl rfl⟩
  | encRdst | decRdst | decPair => exact ⟨_, rfl, performed_respond (.two _ _) rfl rfl⟩
  | lutStep | lutAdj => exact ⟨_, rfl, performed_respond (.one _) rfl rfl⟩
  | encSmp => exact ⟨_, rfl, performed_emitCode (by simp) (by simp) _⟩
  | encEnd => exact ⟨_, rfl, performed_flushCode s⟩
  | unassigned0 | unassigned5 | unassigned8 | unassignedD | unassignedE | unassignedF => exact absurd rfl h
  | decHigh | code0 | code1 | code2 | code3 | code4 | code5 | code6 | code7 | code8 | code9 | code10 | code11
  | code12 | code13 | code14 | code15 => exact ⟨_, rfl, performed_decodeOne _ _ s⟩

/-- Settles O34: an assigned instruction is performed, an unassigned number is refused, and each answers once. -/
theorem everyInstructionCompletesWithOneResponse : Obligations.EveryInstructionCompletesWithOneResponse := by
  intro i s
  by_cases hunit : unitOf i = .unassigned
  · exact ⟨_, respUnassigned, exec_of_unassigned hunit s, rfl, rfl, iff_of_true rfl hunit⟩
  · obtain ⟨t, hexec, hinput, r, hr, hresp⟩ := exec_of_assigned hunit s
    exact ⟨t, r, hexec, hinput, hresp, iff_of_false (by simp [hr.ok]) hunit⟩

/-- Settles O1: the next item is taken and decoded; a row's bits placed on the port are the next item. -/
theorem stepRunsTheDecodedInstruction : Obligations.StepRunsTheDecodedInstruction := by
  refine ⟨fun s e rest h => ⟨decode_wellFormed e, step_of_present h⟩, fun s nbits w i h => ?_⟩
  obtain ⟨e, hbits, rfl⟩ := encodedOfBits_of_decodeTableWord h
  rw [State.withFetchWord_of_ok hbits, step_of_present rfl]

end Sys2Proof.Machine
end

section
/-! Proofs of the statements of 10_state.md: the invariants of R31, which commands write a register, and that the
units do not influence each other. The rules on `State.Inv` and on what the instructions of each unit act on are
general, for the other families' proofs too. -/

namespace Sys2Proof.Machine

/-! The invariants of 10_state.md R31, one rule per operation on the state. -/

/-- Invariant (a) holds by the type of the index registers. -/
theorem State.inv_iff (s : State) : s.Inv ↔
    PvInRange device s.encPv ∧ PvInRange device s.decPv ∧ (s.enc.phase = false → s.enc.hold = 0) :=
  ⟨fun ⟨_, ⟨henc, hdec⟩, hpending⟩ => ⟨henc, hdec, hpending⟩, fun ⟨henc, hdec, hpending⟩ =>
    ⟨⟨Nat.le_of_lt_succ s.enc.idx.isLt, Nat.le_of_lt_succ s.dec.idx.isLt⟩, ⟨henc, hdec⟩, hpending⟩⟩

theorem State.writeEnc_encPv {pv : Int} (hpv : PvInRange device pv) (s : State) (idx : StepIndex) :
    (s.writeEnc pv idx).encPv = pv := toS32_fromS32_of_inRange hpv

theorem State.writeDec_decPv {pv : Int} (hpv : PvInRange device pv) (s : State) (idx : StepIndex) :
    (s.writeDec pv idx).decPv = pv := toS32_fromS32_of_inRange hpv

theorem State.Inv.respond {s : State} (hs : s.Inv) (r : Response) : (s.respond r).Inv := hs

theorem State.Inv.withInput {s : State} (hs : s.Inv) (items : List HostInput) :
    ({ s with input := items } : State).Inv := hs

theorem State.Inv.writeEnc {s : State} (hs : s.Inv) {pv : Int} (hpv : PvInRange device pv) (idx : StepIndex) :
    (s.writeEnc pv idx).Inv := by
  obtain ⟨-, hdec, hpending⟩ := s.inv_iff.1 hs
  exact (State.inv_iff _).2 ⟨by rwa [State.writeEnc_encPv hpv], hdec, hpending⟩

theorem State.Inv.writeDec {s : State} (hs : s.Inv) {pv : Int} (hpv : PvInRange device pv) (idx : StepIndex) :
    (s.writeDec pv idx).Inv := by
  obtain ⟨henc, -, hpending⟩ := s.inv_iff.1 hs
  exact (State.inv_iff _).2 ⟨henc, by rwa [State.writeDec_decPv hpv], hpending⟩

theorem State.Inv.writePending {s : State} (hs : s.Inv) {phase : Bool} {hold : Code}
    (hpending : phase = false → hold = 0) : (s.writePending phase hold).Inv := by
  obtain ⟨henc, hdec, -⟩ := s.inv_iff.1 hs
  exact (State.inv_iff _).2 ⟨henc, hdec, hpending⟩

theorem State.Inv.emitCode {s : State} (hs : s.Inv) (c : Code) : (emitCode s c).Inv := by
  cases hphase : s.enc.phase with
  | false => exact emitCode_first hphase c ▸ (hs.writePending (by simp)).respond _
  | true => exact emitCode_second hphase c ▸ (hs.writePending fun _ => rfl).respond _

theorem State.Inv.flushCode {s : State} (hs : s.Inv) : (flushCode s).Inv := by
  cases hphase : s.enc.phase with
  | false => exact flushCode_empty hphase ▸ hs.respond _
  | true => exact flushCode_pending hphase ▸ (hs.writePending fun _ => rfl).respond _

theorem State.Inv.decodeOne {s : State} (hs : s.Inv) (c : Code) : (decodeOne device c s).Inv :=
  (hs.writeDec (decStep_inRange _ _ c) _).respond _

theorem zero_inRange : PvInRange device 0 := by
  obtain ⟨-, hmin, hmax, -⟩ := device_pv_bounds
  exact ⟨hmin, hmax⟩

theorem resetEvent_inv (s : State) : (resetEvent s).Inv :=
  (State.inv_iff _).2 ⟨zero_inRange, zero_inRange, fun _ => rfl⟩

/-- A register is written with a clamped value or by a step, and a code is dropped only for 0. -/
theorem exec_inv {i : Instr} {s t : State} (hs : s.Inv) (h : exec i s = .next t) : t.Inv := by
  cases i with
  | encLdst pv idx => cases h; exact (hs.writeEnc (clamp_inRange pv) _).respond _
  | encSmp x => cases h; exact (hs.writeEnc (encStep_inRange _ _ x) _).emitCode _
  | encEnd => cases h; exact hs.flushCode
  | decLdst pv idx => cases h; exact (hs.writeDec (clamp_inRange pv) _).respond _
  | decPair b => cases h; exact (hs.writeDec (decStep_inRange _ _ (lowCode b)) _).respond _
  | encRdst | decRdst | lutStep | lutAdj | unassigned0 | unassigned5 | unassigned8 | unassignedD | unassignedE
  | unassignedF => cases h; exact hs.respond _
  | decHigh | code0 | code1 | code2 | code3 | code4 | code5 | code6 | code7 | code8 | code9 | code10 | code11
  | code12 | code13 | code14 | code15 => cases h; exact hs.decodeOne _

/-- Settles O35: an idle step changes nothing, a reset event meets the invariants, an instruction keeps them. -/
theorem invariantsKeptByEveryStep : Obligations.InvariantsKeptByEveryStep := by
  intro s t hs h
  obtain ⟨-, hidle⟩ | ⟨rest, -, hreset⟩ | ⟨e, rest, -, hexec⟩ := step_cases s
  · cases hidle.symm.trans h; exact hs
  · cases hreset.symm.trans h; exact resetEvent_inv _
  · exact exec_inv (hs.withInput rest) (hexec.symm.trans h)

/-- Settles O36: the state of a reset is a state after a reset event. -/
theorem resetStateMeetsTheInvariants : Obligations.ResetStateMeetsTheInvariants :=
  ⟨resetEvent_inv State.reset, resetEvent_inv⟩

/-- Settles O4: the registers of `State.reset` compute to 0. -/
theorem resetStateIsAllZero : Obligations.ResetStateIsAllZero :=
  ⟨rfl, rfl, rfl, rfl, rfl, rfl⟩

/-! What the instructions of each unit act on (10_state.md R20). -/

theorem encRdst_eq (s : State) : encRdst s = s.respond (respTwo s.enc.pv (zextIndex s.enc.idx)) := by
  simp [encRdst, State.encPv]

theorem decRdst_eq (s : State) : decRdst s = s.respond (respTwo s.dec.pv (zextIndex s.dec.idx)) := by
  simp [decRdst, State.decPv]

/-- The encoder's registers alone decide their new values and the response, and no other register is written. -/
def ActsOnEnc (f : State → Outcome) : Prop :=
  ∀ enc : EncUnit, ∃ enc' r, ∀ s : State, s.enc = enc → f s = .next (State.respond { s with enc := enc' } r)

/-- The decoder's registers alone decide their new values and the response, and no other register is written. -/
def ActsOnDec (f : State → Outcome) : Prop :=
  ∀ dec : DecUnit, ∃ dec' r, ∀ s : State, s.dec = dec → f s = .next (State.respond { s with dec := dec' } r)

theorem execEncLdst_actsOnEnc (pv : Int) (idx : Nat) : ActsOnEnc (execEncLdst pv idx) := fun enc =>
  ⟨{ enc with pv := fromS32 (clamp pv device.pvMin device.pvMax), idx := indexOperand idx }, respNone,
    fun _ hs => hs ▸ rfl⟩

theorem execEncRdst_actsOnEnc : ActsOnEnc execEncRdst := fun enc =>
  ⟨enc, respTwo enc.pv (zextIndex enc.idx), fun s hs => hs ▸ congrArg Host.Outcome.next (encRdst_eq s)⟩

theorem execEncSmp_actsOnEnc (x : Int) : ActsOnEnc (execEncSmp x) := by
  intro enc
  let r := encStep device (toS32 enc.pv) enc.idx x
  cases hphase : enc.phase with
  | false =>
    refine ⟨{ pv := fromS32 r.pv, idx := r.idx, phase := true, hold := r.code }, respNone, ?_⟩
    rintro s rfl
    exact congrArg Host.Outcome.next (emitCode_first (s := s.writeEnc r.pv r.idx) hphase r.code)
  | true =>
    refine ⟨{ pv := fromS32 r.pv, idx := r.idx, phase := false, hold := 0 },
      respOne (zextByte (packByte enc.hold r.code)), ?_⟩
    rintro s rfl
    exact congrArg Host.Outcome.next (emitCode_second (s := s.writeEnc r.pv r.idx) hphase r.code)

theorem execEncEnd_actsOnEnc : ActsOnEnc execEncEnd := by
  intro enc
  cases hphase : enc.phase with
  | false =>
    refine ⟨enc, respNone, ?_⟩
    rintro s rfl
    exact congrArg Host.Outcome.next (flushCode_empty hphase)
  | true =>
    refine ⟨{ enc with phase := false, hold := 0 }, respOne (zextByte (packByte enc.hold 0)), ?_⟩
    rintro s rfl
    exact congrArg Host.Outcome.next (flushCode_pending hphase)

theorem execDecLdst_actsOnDec (pv : Int) (idx : Nat) : ActsOnDec (execDecLdst pv idx) := fun _ =>
  ⟨{ pv := fromS32 (clamp pv device.pvMin device.pvMax), idx := indexOperand idx }, respNone, fun _ _ => rfl⟩

theorem execDecRdst_actsOnDec : ActsOnDec execDecRdst := fun dec =>
  ⟨dec, respTwo dec.pv (zextIndex dec.idx), fun s hs => hs ▸ congrArg Host.Outcome.next (decRdst_eq s)⟩

theorem execDecPair_actsOnDec (b : Nat) : ActsOnDec (execDecPair b) := fun dec =>
  let r0 := decStep device (toS32 dec.pv) dec.idx (highCode b)
  let r1 := decStep device r0.pv r0.idx (lowCode b)
  ⟨{ pv := fromS32 r1.pv, idx := r1.idx }, respTwo (fromS32 r0.sample) (fromS32 r1.sample), by rintro s rfl; rfl⟩

theorem decodeOne_actsOnDec (c : Code) : ActsOnDec (fun s => .next (decodeOne device c s)) := fun dec =>
  let r := decStep device (toS32 dec.pv) dec.idx c
  ⟨{ pv := fromS32 r.pv, idx := r.idx }, respOne (fromS32 r.sample), by rintro s rfl; rfl⟩

theorem exec_actsOnEnc {i : Instr} (hunit : unitOf i = .encoder) : ActsOnEnc (exec i) := by
  cases i with
  | encLdst pv idx => exact execEncLdst_actsOnEnc pv idx
  | encRdst => exact execEncRdst_actsOnEnc
  | encSmp x => exact execEncSmp_actsOnEnc x
  | encEnd => exact execEncEnd_actsOnEnc
  | _ => cases hunit

theorem exec_actsOnDec {i : Instr} (hunit : unitOf i = .decoder) : ActsOnDec (exec i) := by
  cases i with
  | decLdst pv idx => exact execDecLdst_actsOnDec pv idx
  | decRdst => exact execDecRdst_actsOnDec
  | decPair b => exact execDecPair_actsOnDec b
  | decHigh | code0 | code1 | code2 | code3 | code4 | code5 | code6 | code7 | code8 | code9 | code10 | code11
  | code12 | code13 | code14 | code15 => exact decodeOne_actsOnDec _
  | _ => cases hunit

/-- A table read or an unassigned number writes no register, and no register decides its response. -/
theorem exec_of_no_unit {i : Instr} (hunit : unitOf i = .tables ∨ unitOf i = .unassigned) :
    ∃ r, ∀ s : State, exec i s = .next (s.respond r) := by
  cases i with
  | lutStep idx => exact ⟨respOne (zextStep (stepLut device (indexOperand idx))), fun _ => rfl⟩
  | lutAdj c => exact ⟨respOne (sext32 (adjLut (codeOperand c))), fun _ => rfl⟩
  | unassigned0 | unassigned5 | unassigned8 | unassignedD | unassignedE | unassignedF =>
    exact ⟨respUnassigned, fun _ => rfl⟩
  | _ => simp [unitOf] at hunit

theorem unitOf_cases (i : Instr) :
    unitOf i = .encoder ∨ unitOf i = .decoder ∨ unitOf i = .tables ∨ unitOf i = .unassigned := by
  cases unitOf i <;> simp

/-- Settles O41: the new registers and the response are a function of the acting unit's own registers. -/
theorem unitsDoNotInfluenceEachOther : Obligations.UnitsDoNotInfluenceEachOther := by
  intro i s s'
  obtain hunit | hunit | hunit := unitOf_cases i
  · choose enc' r hexec using exec_actsOnEnc hunit
    refine ⟨_, _, r s.enc, r s'.enc, hexec _ s rfl, hexec _ s' rfl, rfl, rfl,
      fun _ => ⟨rfl, fun henc => ?_⟩, by simp [hunit], by simp [hunit]⟩
    simp [henc]
  · choose dec' r hexec using exec_actsOnDec hunit
    refine ⟨_, _, r s.dec, r s'.dec, hexec _ s rfl, hexec _ s' rfl, rfl, rfl,
      by simp [hunit], fun _ => ⟨rfl, fun hdec => ?_⟩, by simp [hunit]⟩
    simp [hdec]
  · obtain ⟨r, hexec⟩ := exec_of_no_unit hunit
    refine ⟨_, _, r, r, hexec s, hexec s', rfl, rfl, fun h => ?_, fun h => ?_, fun _ => ⟨rfl, rfl, rfl⟩⟩ <;>
      simp [h] at hunit

/-- Settles O43: the other units' instructions do not act on the encoder, `ENC.LDST` overwrites the two registers
that it touches with its operands, and `ENC.RDST` reports those two alone. -/
theorem pendingNibbleIsHidden : Obligations.PendingNibbleIsHidden := by
  intro i s phase hold hend hsmp
  obtain hunit | hunit | hunit := unitOf_cases i
  · cases i with
    | encLdst | encRdst => exact ⟨_, _, _, rfl, rfl, rfl, rfl, rfl, rfl, rfl⟩
    | encSmp x => exact absurd rfl (hsmp x)
    | encEnd => exact absurd rfl hend
    | _ => cases hunit
  · obtain ⟨dec', r, hexec⟩ := exec_actsOnDec hunit s.dec
    exact ⟨_, _, r, hexec _ rfl, hexec _ rfl, rfl, rfl, rfl, rfl, rfl⟩
  · obtain ⟨r, hexec⟩ := exec_of_no_unit hunit
    exact ⟨_, _, r, hexec _, hexec _, rfl, rfl, rfl, rfl, rfl⟩

/-! The frame of each register (10_state.md R20, column "written by"). -/

theorem exec_enc_of_ne_encoder {i : Instr} (hunit : unitOf i ≠ .encoder) {s t : State} (h : exec i s = .next t) :
    t.enc = s.enc := by
  obtain henc | hdec | hnone := unitOf_cases i
  · exact absurd henc hunit
  · obtain ⟨dec', r, hexec⟩ := exec_actsOnDec hdec s.dec
    cases (hexec s rfl).symm.trans h; rfl
  · obtain ⟨r, hexec⟩ := exec_of_no_unit hnone
    cases (hexec s).symm.trans h; rfl

theorem exec_dec_of_ne_decoder {i : Instr} (hunit : unitOf i ≠ .decoder) {s t : State} (h : exec i s = .next t) :
    t.dec = s.dec := by
  obtain henc | hdec | hnone := unitOf_cases i
  · obtain ⟨enc', r, hexec⟩ := exec_actsOnEnc henc s.enc
    cases (hexec s rfl).symm.trans h; rfl
  · exact absurd hdec hunit
  · obtain ⟨r, hexec⟩ := exec_of_no_unit hnone
    cases (hexec s).symm.trans h; rfl

theorem exec_frame_encCodec {i : Instr} {s t : State} (h : exec i s = .next t) :
    t.enc.pv = s.enc.pv ∧ t.enc.idx = s.enc.idx ∨ (∃ pv idx, i = .encLdst pv idx) ∨ ∃ x, i = .encSmp x := by
  cases i with
  | encLdst pv idx => exact .inr (.inl ⟨pv, idx, rfl⟩)
  | encSmp x => exact .inr (.inr ⟨x, rfl⟩)
  | encRdst => cases h; exact .inl ⟨rfl, rfl⟩
  | encEnd =>
    obtain ⟨hpv, hidx, -, -⟩ := flushCode_frame s
    cases h; exact .inl ⟨hpv, hidx⟩
  | _ => exact .inl (by simp [exec_enc_of_ne_encoder (by simp [unitOf]) h])

theorem exec_frame_pending {i : Instr} {s t : State} (h : exec i s = .next t) :
    t.enc.phase = s.enc.phase ∧ t.enc.hold = s.enc.hold ∨ i = .encEnd ∨ ∃ x, i = .encSmp x := by
  cases i with
  | encSmp x => exact .inr (.inr ⟨x, rfl⟩)
  | encEnd => exact .inr (.inl rfl)
  | encLdst | encRdst => cases h; exact .inl ⟨rfl, rfl⟩
  | _ => exact .inl (by simp [exec_enc_of_ne_encoder (by simp [unitOf]) h])

theorem exec_frame_dec {i : Instr} {s t : State} (h : exec i s = .next t) :
    t.dec = s.dec ∨ (∃ pv idx, i = .decLdst pv idx) ∨ (∃ b, i = .decPair b) ∨ (∃ b, i = .decHigh b) ∨
      ∃ c, i = decodeNibble c := by
  cases i with
  | decLdst pv idx => exact .inr (.inl ⟨pv, idx, rfl⟩)
  | decPair b => exact .inr (.inr (.inl ⟨b, rfl⟩))
  | decHigh b => exact .inr (.inr (.inr (.inl ⟨b, rfl⟩)))
  | decRdst => cases h; exact .inl rfl
  | code0 | code1 | code2 | code3 | code4 | code5 | code6 | code7 | code8 | code9 | code10 | code11
  | code12 | code13 | code14 | code15 => exact .inr (.inr (.inr (.inr (by decide))))
  | _ => exact .inl (exec_dec_of_ne_decoder (by simp [unitOf]) h)

/-- Settles O39: a frame for each group of registers; at the ports every instruction answers once (O34). -/
theorem onlyNamedCommandsWriteARegister : Obligations.OnlyNamedCommandsWriteARegister := by
  intro i s t h
  obtain ⟨u, r, hexec, hinput, hresp, -⟩ := everyInstructionCompletesWithOneResponse i s
  cases hexec.symm.trans h
  exact ⟨exec_frame_encCodec h, exec_frame_pending h, exec_frame_dec h, hinput, [r], hresp⟩

/-! Loading a saved Codec State (10_state.md R29). -/

@[simp] theorem indexOperand_zextIndex (i : StepIndex) : indexOperand (zextIndex i).toNat = i := by
  have hval : (zextIndex i).toNat = i.val := by simp only [zextIndex, BitVec.toNat_ofNat]; omega
  rw [hval, indexOperand_of_stepIndex]

/-- Loading a register's own value back: it is within the bounds, so the clamp leaves it as it is. -/
theorem fromS32_clamp_of_inRange {u : Field32} (h : PvInRange device (toS32 u)) :
    fromS32 (clamp (toS32 u) device.pvMin device.pvMax) = u := by
  rw [clamp_of_mem h.1 h.2, fromS32_toS32]

/-- Settles O44: the load clamps, and the invariants put the saved predicted value within the bounds. -/
theorem savedStateCanBeLoadedBack : Obligations.SavedStateCanBeLoadedBack := by
  intro s s' hs
  obtain ⟨henc, hdec, -⟩ := s.inv_iff.1 hs
  constructor
  · refine ⟨_, respTwo s.enc.pv (zextIndex s.enc.idx), _, congrArg Host.Outcome.next (encRdst_eq s), rfl, rfl,
      ?_, ?_⟩
    · exact fromS32_clamp_of_inRange henc
    · exact indexOperand_zextIndex s.enc.idx
  · refine ⟨_, respTwo s.dec.pv (zextIndex s.dec.idx), _, congrArg Host.Outcome.next (decRdst_eq s), rfl, rfl, ?_⟩
    exact congrArg₂ DecUnit.mk (fromS32_clamp_of_inRange hdec) (indexOperand_zextIndex s.dec.idx)

end Sys2Proof.Machine
end

section
/-! Proofs of the statements of 20_memory.md: command streams, the packing of codes into bytes, and the reads. The
rules on `execAll` and `packCodes` are general, for the other families' proofs too. -/

namespace Sys2Proof.Machine

/-! Command streams (20_memory.md R50, R52). -/

theorem execAll_cons_of_next {i : Instr} {s t : State} (h : exec i s = .next t) (is : List Instr) :
    execAll (i :: is) s = execAll is t := by
  simp [execAll, h]

theorem run_succ_of_next {s t : State} (h : step s = .next t) (k : Nat) :
    Host.Core.run core (k + 1) s = Host.Core.run core k t := by
  have hstep : core.step s = .next t := h
  simp [Host.Core.run, hstep]

/-- An instruction neither reads nor writes the command port. -/
theorem exec_withInput {i : Instr} {s t : State} (h : exec i s = .next t) (items : List HostInput) :
    exec i { s with input := items } = .next { t with input := items } := by
  obtain hunit | hunit | hunit := unitOf_cases i
  · obtain ⟨enc', r, hexec⟩ := exec_actsOnEnc hunit s.enc
    cases (hexec s rfl).symm.trans h; exact hexec _ rfl
  · obtain ⟨dec', r, hexec⟩ := exec_actsOnDec hunit s.dec
    cases (hexec s rfl).symm.trans h; exact hexec _ rfl
  · obtain ⟨r, hexec⟩ := exec_of_no_unit hunit
    cases (hexec s).symm.trans h; exact hexec _

/-- Settles O5, by induction on the stream: a step takes the first encoding and leaves the rest on the port, and
what it does is what its instruction does with the port empty. -/
theorem commandsRunInOrderOfArrival : Obligations.CommandsRunInOrderOfArrival := by
  intro es
  induction es with
  | nil => rintro ⟨enc, dec, input, responses⟩ rfl; rfl
  | cons e es ih =>
    intro s hs
    obtain ⟨t, r, hexec, hinput, -⟩ :=
      everyInstructionCompletesWithOneResponse (decode e) { s with input := es.map .present }
    have hstep : step s = .next t := (step_of_present hs).trans hexec
    rw [List.length_cons, run_succ_of_next hstep, ih t hinput, List.map_cons,
      execAll_cons_of_next (exec_withInput hexec [])]

/-! Packing (20_memory.md R46, R47). -/

/-- Codes packed two to a byte, the first in the high nibble; a last odd one is padded with 0. -/
def packCodes : List Code → List Byte
  | [] => []
  | [c] => [packByte c 0]
  | c :: c' :: cs => packByte c c' :: packCodes cs

/-- The bytes of the encode loop are the pending code and the codes of the samples, packed. -/
theorem encodeFrom_bytes (cfg : Config) (pending : Option Code) (pv : Int) (idx : StepIndex) (xs : List Int) :
    (encodeFrom cfg pending pv idx xs).bytes = packCodes (pending.toList ++ encodeCodes cfg pv idx xs) := by
  induction xs generalizing pending pv idx with
  | nil => cases pending <;> rfl
  | cons x xs ih =>
    cases pending with
    | none => exact ih ..
    | some c => exact congrArg (packByte c _ :: ·) (ih ..)

theorem encodeBuffer_bytes (cfg : Config) (xs : List Int) (pv : Int) (idx : StepIndex) :
    (encodeBuffer cfg xs pv idx).bytes = packCodes (encodeCodes cfg pv idx xs) :=
  encodeFrom_bytes cfg none pv idx xs

theorem packCodes_getElem? (cs : List Code) (k : Nat) :
    (packCodes cs)[k]? = cs[2 * k]?.map fun c => packByte c (cs[2 * k + 1]?.getD 0) := by
  induction cs using packCodes.induct generalizing k with
  | case1 => simp [packCodes]
  | case2 c => cases k <;> simp [packCodes, Nat.mul_add]
  | case3 c c' cs ih => cases k <;> simp [packCodes, Nat.mul_add, ih]

@[simp] theorem extractLsb'_high_packByte (a b : Code) : (packByte a b).extractLsb' 4 4 = a :=
  BitVec.extractLsb'_append_eq_left

@[simp] theorem extractLsb'_low_packByte (a b : Code) : (packByte a b).extractLsb' 0 4 = b :=
  BitVec.extractLsb'_append_eq_right

/-- Settles O48: the bytes are the packed codes, and the k-th packed byte is made of codes `2k` and `2k + 1`. -/
theorem byteKHoldsCodes2kAnd2kPlus1 : Obligations.ByteKHoldsCodes2kAnd2kPlus1 := by
  intro cfg xs pv idx k b h
  rw [encodeBuffer_bytes, packCodes_getElem?] at h
  obtain ⟨c, hc, rfl⟩ := Option.map_eq_some_iff.1 h
  simp [hc]

/-! Reads (20_memory.md R53). -/

/-- A read writes no register, and its response is a function of the registers. -/
theorem exec_of_read {i : Instr}
    (hread : i = .encRdst ∨ i = .decRdst ∨ (∃ idx, i = .lutStep idx) ∨ ∃ c, i = .lutAdj c) (s : State) :
    ∃ r, ∀ t : State, t.enc = s.enc → t.dec = s.dec → exec i t = .next (t.respond r) := by
  obtain rfl | rfl | ⟨idx, rfl⟩ | ⟨c, rfl⟩ := hread
  · exact ⟨_, fun t henc _ => congrArg Host.Outcome.next (henc ▸ encRdst_eq t)⟩
  · exact ⟨_, fun t _ hdec => congrArg Host.Outcome.next (hdec ▸ decRdst_eq t)⟩
  · exact ⟨_, fun _ _ _ => rfl⟩
  · exact ⟨_, fun _ _ _ => rfl⟩

/-- Settles O40: the first read leaves the registers that the second one answers from. -/
theorem readsHaveNoSideEffects : Obligations.ReadsHaveNoSideEffects := by
  intro i s hread
  obtain ⟨r, hexec⟩ := exec_of_read hread s
  exact ⟨_, _, r, hexec s rfl rfl, hexec (s.respond r) rfl rfl, rfl, rfl, rfl, rfl, rfl, by simp⟩

end Sys2Proof.Machine
end

section
/-! Proofs of the statements of 30_encoding.md: decoding and encoding of both formats, the fields that a command
ignores, and the shape and layout of responses. The equations of `decode` on a word made of its fields, one per
command number, are general, for the other families' proofs too. -/

namespace Sys2Proof

/-! What a word made of its fields decodes to (30_encoding.md R64, R65, R67, R71). -/

section DecodeOfFields

variable (idx : BitVec 7) (data : Field32)

@[simp] theorem decode_commandWordOf_encLdst :
    decode (.commandWord (commandWordOf 0x1#4 idx data)) = .encLdst (toS32 data) idx.toNat := by
  simp [decode, decodeCommand]

@[simp] theorem decode_commandWordOf_encRdst :
    decode (.commandWord (commandWordOf 0x2#4 idx data)) = .encRdst := by
  simp [decode, decodeCommand]

@[simp] theorem decode_commandWordOf_encSmp :
    decode (.commandWord (commandWordOf 0x3#4 idx data)) = .encSmp (toS32 data) := by
  simp [decode, decodeCommand]

@[simp] theorem decode_commandWordOf_encEnd :
    decode (.commandWord (commandWordOf 0x4#4 idx data)) = .encEnd := by
  simp [decode, decodeCommand]

@[simp] theorem decode_commandWordOf_lutStep :
    decode (.commandWord (commandWordOf 0x6#4 idx data)) = .lutStep idx.toNat := by
  simp [decode, decodeCommand]

@[simp] theorem decode_commandWordOf_lutAdj :
    decode (.commandWord (commandWordOf 0x7#4 idx data)) = .lutAdj (data.extractLsb' 0 4).toNat := by
  simp [decode, decodeCommand]

@[simp] theorem decode_commandWordOf_decLdst :
    decode (.commandWord (commandWordOf 0x9#4 idx data)) = .decLdst (toS32 data) idx.toNat := by
  simp [decode, decodeCommand]

@[simp] theorem decode_commandWordOf_decRdst :
    decode (.commandWord (commandWordOf 0xA#4 idx data)) = .decRdst := by
  simp [decode, decodeCommand]

@[simp] theorem decode_commandWordOf_decPair :
    decode (.commandWord (commandWordOf 0xB#4 idx data)) = .decPair (data.extractLsb' 0 8).toNat := by
  simp [decode, decodeCommand]

@[simp] theorem decode_commandWordOf_decHigh :
    decode (.commandWord (commandWordOf 0xC#4 idx data)) = .decHigh (data.extractLsb' 0 8).toNat := by
  simp [decode, decodeCommand]

@[simp] theorem decode_commandWordOf_unassigned0 :
    decode (.commandWord (commandWordOf 0x0#4 idx data)) = .unassigned0 := by
  simp [decode, decodeCommand]

@[simp] theorem decode_commandWordOf_unassigned5 :
    decode (.commandWord (commandWordOf 0x5#4 idx data)) = .unassigned5 := by
  simp [decode, decodeCommand]

@[simp] theorem decode_commandWordOf_unassigned8 :
    decode (.commandWord (commandWordOf 0x8#4 idx data)) = .unassigned8 := by
  simp [decode, decodeCommand]

@[simp] theorem decode_commandWordOf_unassignedD :
    decode (.commandWord (commandWordOf 0xD#4 idx data)) = .unassignedD := by
  simp [decode, decodeCommand]

@[simp] theorem decode_commandWordOf_unassignedE :
    decode (.commandWord (commandWordOf 0xE#4 idx data)) = .unassignedE := by
  simp [decode, decodeCommand]

@[simp] theorem decode_commandWordOf_unassignedF :
    decode (.commandWord (commandWordOf 0xF#4 idx data)) = .unassignedF := by
  simp [decode, decodeCommand]

end DecodeOfFields

/-! Decoding undoes encoding (30_encoding.md R76, R77). -/

theorem isS32_iff {v : Int} : isS32 v = true ↔ -2147483648 ≤ v ∧ v ≤ 2147483647 := by
  simp [isS32]

/-- The range check that `ENC.LDST` and `DEC.LDST` share. -/
theorem wellFormed_load {pv : Int} {idx : Nat} (h : (isS32 pv && decide (idx ≤ 127)) = true) :
    isS32 pv = true ∧ idx ≤ 127 := by
  simpa using h

theorem toS32_fromS32_of_isS32 {v : Int} (h : isS32 v = true) : toS32 (fromS32 v) = v :=
  Machine.toS32_fromS32 (isS32_iff.1 h).1 (isS32_iff.1 h).2

/-- An index operand survives being written to its field and read back. -/
theorem idx_roundTrip {idx : Nat} (h : idx ≤ 127) : (BitVec.ofNat 7 idx).toNat = idx :=
  (BitVec.toNat_ofNat ..).trans (Nat.mod_eq_of_lt (Nat.lt_succ_of_le h))

/-- So does a code or byte operand, in the low `k` bits of the data field. -/
theorem lowBits_roundTrip {k b : Nat} (hk : k ≤ 32) (h : b < 2 ^ k) :
    ((BitVec.ofNat 32 b).extractLsb' 0 k).toNat = b := by
  have h32 : b < 2 ^ 32 := h.trans_le (Nat.pow_le_pow_right (by decide) hk)
  simp only [BitVec.extractLsb'_toNat, BitVec.toNat_ofNat, Nat.shiftRight_zero, Nat.mod_eq_of_lt h32,
    Nat.mod_eq_of_lt h]

/-- Settles O7: each command number has its equation of `decode`, and each operand survives its field. An encoding
without operands is a fixed word. -/
theorem decodeOfEncodeIsTheInstruction : Obligations.DecodeOfEncodeIsTheInstruction := by
  intro i hwf
  cases i with
  | encLdst pv idx =>
    obtain ⟨hpv, hidx⟩ := wellFormed_load hwf
    exact (decode_commandWordOf_encLdst _ _).trans
      (congrArg₂ Instr.encLdst (toS32_fromS32_of_isS32 hpv) (idx_roundTrip hidx))
  | decLdst pv idx =>
    obtain ⟨hpv, hidx⟩ := wellFormed_load hwf
    exact (decode_commandWordOf_decLdst _ _).trans
      (congrArg₂ Instr.decLdst (toS32_fromS32_of_isS32 hpv) (idx_roundTrip hidx))
  | encSmp x =>
    exact (decode_commandWordOf_encSmp _ _).trans (congrArg Instr.encSmp (toS32_fromS32_of_isS32 hwf))
  | lutStep idx =>
    exact (decode_commandWordOf_lutStep _ _).trans (congrArg Instr.lutStep (idx_roundTrip (of_decide_eq_true hwf)))
  | lutAdj c =>
    have hc : c < 2 ^ 4 := Nat.lt_succ_of_le (of_decide_eq_true hwf)
    exact (decode_commandWordOf_lutAdj _ _).trans (congrArg Instr.lutAdj (lowBits_roundTrip (by decide) hc))
  | decPair b =>
    have hb : b < 2 ^ 8 := Nat.lt_succ_of_le (of_decide_eq_true hwf)
    exact (decode_commandWordOf_decPair _ _).trans (congrArg Instr.decPair (lowBits_roundTrip (by decide) hb))
  | decHigh b =>
    have hb : b < 2 ^ 8 := Nat.lt_succ_of_le (of_decide_eq_true hwf)
    exact (decode_commandWordOf_decHigh _ _).trans (congrArg Instr.decHigh (lowBits_roundTrip (by decide) hb))
  | _ => rfl

/-- Settles O6: decoding computes on a fixed word. -/
theorem specWordsDecode : Obligations.SpecWordsDecode := by
  unfold Obligations.SpecWordsDecode; decide

/-! The row of the opcode table (30_encoding.md R64). -/

/-- A command word is made of its three fields (30_encoding.md R63). -/
theorem commandWordOf_fields (cw : CommandWord) : commandWordOf (opField cw) (idxField cw) (dataField cw) = cw := by
  apply BitVec.eq_of_toNat_eq
  simp only [commandWordOf_toNat, opField, idxField, dataField, BitVec.extractLsb'_toNat,
    Nat.shiftRight_eq_div_pow]
  have := cw.isLt; omega

theorem tableRow_decodeCommand (cw : CommandWord) :
    tableRow (decodeCommand cw) = (0x78000000000, (opField cw).toNat * 2 ^ 39) := by
  have hlt : (opField cw).toNat < 16 := (opField cw).isLt
  unfold decodeCommand
  interval_cases (opField cw).toNat <;> rfl

theorem tableRow_decodeNibble (c : Code) : tableRow (decodeNibble c) = (0xF, c.toNat) := by
  revert c; decide

/-- Settles O8: the row follows the field `op`, and bits 42:39 of a word are that field. -/
theorem decodeFollowsTheCommandNumber : Obligations.DecodeFollowsTheCommandNumber := by
  refine ⟨fun cw => ⟨decodeCommand_wellFormed cw, ?_⟩,
    fun c => ⟨decodeNibble_wellFormed c, tableRow_decodeNibble c⟩⟩
  have hmask := Laws.TableMatch.commandWordOf_mask (opField cw) (idxField cw) (dataField cw)
  rw [commandWordOf_fields] at hmask
  rw [tableRow_decodeCommand, hmask]

/-! The integers that the assembler gives (30_encoding.md R77). -/

theorem fromS32_toNat (v : Int) : (fromS32 v).toNat = (v % 2 ^ 32).toNat := BitVec.toNat_ofInt v

/-- Settles O9: a word is the sum of its shifted fields, and each operand fits its field. -/
theorem assemblerWordsAreAsTabulated : Obligations.AssemblerWordsAreAsTabulated := by
  refine ⟨fun pv idx _ _ hidx => ⟨?_, ?_⟩, fun s _ _ => ?_, fun idx hidx => ?_, fun c hc => ?_,
    fun b hb => ⟨?_, ?_⟩, rfl, rfl, rfl⟩ <;>
  simp only [encode, encodedBits, commandWordOf_toNat, fromS32_toNat, BitVec.ofNat_eq_ofNat, BitVec.toNat_ofNat] <;>
  omega

end Sys2Proof

namespace Sys2Proof.Machine

/-! Ignored fields (30_encoding.md R73). -/

/-- The high code of the byte of a data field is its bits 7:4 (30_encoding.md R67). -/
theorem highCode_byte (data : Field32) : highCode (data.extractLsb' 0 8).toNat = data.extractLsb' 4 4 := by
  apply BitVec.eq_of_toNat_eq
  simp only [highCode, BitVec.toNat_ofNat, BitVec.extractLsb'_toNat, Nat.shiftRight_eq_div_pow]; omega

theorem exec_decHigh (b : Nat) (s : State) : exec (.decHigh b) s = .next (decodeOne device (highCode b) s) := rfl

/-- Settles O10: what a command decodes to names none of the fields that it ignores, and `DEC.HIGH` uses the high
code of its byte only. -/
theorem ignoredFieldsDoNotMatter : Obligations.IgnoredFieldsDoNotMatter := by
  refine fun idx idx' data data' s => ⟨?_, ?_, ?_, fun hcode => ?_, fun hbyte => ?_, fun hhigh => ?_⟩
  · simp
  · simp
  · simp
  · simp [hcode]
  · simp [hbyte]
  · simp only [BitVec.ofNat_eq_ofNat, decode_commandWordOf_decHigh, exec_decHigh, highCode_byte, hhigh]

/-! Unassigned command numbers (30_encoding.md R71). -/

/-- Settles O30: an unassigned number is refused, which only answers. -/
theorem unassignedNumbersAreRefusedAndGoOn : Obligations.UnassignedNumbersAreRefusedAndGoOn := by
  refine ⟨fun idx data => by simp, fun i hi s => ?_⟩
  have hunit : unitOf i = .unassigned := by revert i; decide
  exact ⟨refuseCommand s, exec_of_unassigned hunit s, rfl, rfl, rfl, rfl, rfl⟩

/-! The shape of responses (30_encoding.md R68, R70). -/

theorem Response.IsPerformed.wellShaped {r : Response} (h : r.IsPerformed) : r.WellShaped := by
  cases h <;> simp [WellShaped, respNone, respOne, respTwo]

theorem respUnassigned_wellShaped : respUnassigned.WellShaped := by
  simp [Response.WellShaped, respUnassigned]

/-- Every instruction answers with one well-shaped response. -/
theorem exec_answers_wellShaped {i : Instr} {s t : State} (h : exec i s = .next t) :
    ∃ r : Response, r.WellShaped ∧ t.responses = s.responses ++ [r] := by
  by_cases hunit : unitOf i = .unassigned
  · cases (exec_of_unassigned hunit s).symm.trans h
    exact ⟨respUnassigned, respUnassigned_wellShaped, rfl⟩
  · obtain ⟨u, hexec, -, r, hr, hresp⟩ := exec_of_assigned hunit s
    cases hexec.symm.trans h
    exact ⟨r, hr.wellShaped, hresp⟩

/-- Settles O37: an idle step and a reset event answer nothing, and an instruction adds a well-shaped response. -/
theorem responsesKeepTheirShape : Obligations.ResponsesKeepTheirShape := by
  intro s t hs h
  obtain ⟨-, hidle⟩ | ⟨rest, -, hreset⟩ | ⟨e, rest, -, hexec⟩ := step_cases s
  · cases hidle.symm.trans h; exact hs
  · cases hreset.symm.trans h; exact hs
  · obtain ⟨r, hr, hresp⟩ := exec_answers_wellShaped (hexec.symm.trans h)
    rw [hresp]
    exact List.forall_mem_append.2 ⟨hs, List.forall_mem_singleton.2 hr⟩

/-! The layout of the response word (30_encoding.md R68). -/

theorem responseWord_toNat (r : Response) : (responseWord r).toNat =
    (if r.ok then 2 ^ 66 else 0) + r.n.toNat * 2 ^ 64 + r.d1.toNat * 2 ^ 32 + r.d0.toNat := by
  have hn := r.n.isLt; have hd1 := r.d1.isLt; have hd0 := r.d0.isLt
  simp only [responseWord, BitVec.toNat_append, BitVec.toNat_ofBool]
  rw [← Nat.shiftLeft_add_eq_or_of_lt hd0, ← Nat.shiftLeft_add_eq_or_of_lt hd1,
    ← Nat.shiftLeft_add_eq_or_of_lt hn]
  simp only [Nat.shiftLeft_eq]
  cases r.ok <;> simp <;> omega

/-- Settles O38: the word is the sum of its shifted fields, so each is read back by division. -/
theorem responseWordLayout : Obligations.ResponseWordLayout := by
  intro r
  have hn := r.n.isLt; have hd1 := r.d1.isLt; have hd0 := r.d0.isLt
  refine ⟨responseWord_toNat r, ?_, ?_, ?_, ?_⟩
  · rw [← BitVec.testBit_toNat, responseWord_toNat, Nat.testBit_eq_decide_div_mod_eq]
    cases r.ok <;> simp only [decide_eq_true_eq, decide_eq_false_iff_not, if_true, if_false, Bool.false_eq_true] <;>
      omega
  all_goals
    apply BitVec.eq_of_toNat_eq
    rw [BitVec.extractLsb'_toNat, responseWord_toNat, Nat.shiftRight_eq_div_pow]
    split <;> omega

end Sys2Proof.Machine
end

section
/-! Proofs of the statements of 40_step_size_model.md: what `quantize` and `reconstruct` compute, the saturation of the
predicted value, and the table reads. The thresholds of the quantizer and the rules on `clamp` and `adjLut` are general,
for the other families' proofs too. -/

namespace Sys2Proof

theorem Config.Admissible.pvMin_le_pvMax {cfg : Config} (h : cfg.Admissible) : cfg.pvMin ≤ cfg.pvMax := by
  obtain ⟨-, -, ⟨-, hmin⟩, hmax, -⟩ := h
  exact hmin.trans hmax

end Sys2Proof

namespace Sys2Proof.Machine

/-! The three tests of `quantize` and the bits of its magnitude code (40_step_size_model.md R92 to R94). -/

/-- The three tests of `quantize` are the three bits of its magnitude code. -/
theorem getLsbD_of_tests (top middle bottom : Bool) :
    let m : Mag := (if top then 4 else 0) ||| (if middle then 2 else 0) ||| (if bottom then 1 else 0)
    m.getLsbD 2 = top ∧ m.getLsbD 1 = middle ∧ m.getLsbD 0 = bottom := by
  revert top middle bottom; decide

theorem quantize_vpdiff (d step : Nat) : (quantize d step).vpdiff = reconstruct (quantize d step).delta step := by
  simp only [quantize, reconstruct, getLsbD_of_tests, ← Nat.shiftRight_add]

/-- Settles O11: both sides sum the same shifted step sizes, by the tests and by the bits that record them. -/
theorem quantizeAgreesWithReconstruct : Obligations.QuantizeAgreesWithReconstruct :=
  fun d step _ => quantize_vpdiff d step

/-! The decision intervals of the quantizer (42_decoder.md R156). -/

/-- The least difference with magnitude code `m`: the number `b[m]` of 42_decoder.md R156. -/
def threshold (m : Mag) (step : Nat) : Nat :=
  (if m.getLsbD 2 then step else 0) + (if m.getLsbD 1 then step >>> 1 else 0) +
    (if m.getLsbD 0 then step >>> 2 else 0)

theorem reconstruct_eq (m : Mag) (step : Nat) : reconstruct m step = step >>> 3 + threshold m step := by
  simp only [reconstruct, threshold, Nat.add_assoc]

/-- The thresholds are non-decreasing (42_decoder.md R156). -/
theorem threshold_monotone (step : Nat) : Monotone fun m : Fin 8 => threshold (.ofFin m) step := by
  refine Fin.monotone_iff_le_succ.2 fun m => ?_
  fin_cases m <;> simp [threshold, Nat.shiftRight_eq_div_pow] <;> omega

@[simp] theorem threshold_zero (step : Nat) : threshold 0#3 step = 0 := rfl

@[simp] theorem threshold_one (step : Nat) : threshold 1#3 step = step >>> 2 := Nat.zero_add _

@[simp] theorem threshold_seven (step : Nat) : threshold 7#3 step = step + step >>> 1 + step >>> 2 := rfl

theorem threshold_le (m : Mag) (step : Nat) : threshold m step ≤ step + step >>> 1 + step >>> 2 :=
  threshold_monotone step (Fin.le_last m.toFin)

/-- An interval of the quantizer holds at most `s1 - s2 + 1` differences. -/
theorem threshold_succ_le {m : Mag} (hm : m ≠ 7) (step : Nat) :
    threshold (m + 1) step ≤ threshold m step + (step >>> 1 - step >>> 2) + 1 := by
  obtain ⟨m⟩ := m
  fin_cases m <;> simp [threshold, Nat.shiftRight_eq_div_pow] at hm ⊢ <;> omega

/-- The difference lies between the threshold of its magnitude code and the next one, whichever way the three tests
of `quantize` come out (40_step_size_model.md R92). -/
theorem quantize_delta_interval (d step : Nat) : threshold (quantize d step).delta step ≤ d ∧
    ((quantize d step).delta ≠ 7 → d < threshold ((quantize d step).delta + 1) step) := by
  simp only [quantize, decide_eq_true_eq, ge_iff_le, Nat.shiftRight_eq_div_pow]
  split_ifs <;> simp [threshold, Nat.shiftRight_eq_div_pow] <;> omega

/-- A difference below the end of one interval is below every later one. -/
theorem lt_threshold_of_lt {m m' : Mag} (hm : m < m') {d step : Nat} (hd : m ≠ 7 → d < threshold (m + 1) step) :
    d < threshold m' step := by
  have hsucc : m ≠ 7 ∧ (m + 1).toFin ≤ m'.toFin := by clear hd; revert m m'; decide
  exact (hd hsucc.1).trans_le (threshold_monotone step hsucc.2)

/-- The magnitude code is the one whose interval holds the difference (42_decoder.md R156). -/
theorem quantize_delta_eq_iff (d step : Nat) (m : Mag) : (quantize d step).delta = m ↔
    threshold m step ≤ d ∧ (m ≠ 7 → d < threshold (m + 1) step) := by
  obtain ⟨hle, hlt⟩ := quantize_delta_interval d step
  constructor
  · rintro rfl; exact ⟨hle, hlt⟩
  · rintro ⟨hle', hlt'⟩
    obtain hm | hm | hm := BitVec.lt_trichotomy (quantize d step).delta m
    · exact absurd hle' (lt_threshold_of_lt hm hlt).not_ge
    · exact hm
    · exact absurd hle (lt_threshold_of_lt hm hlt').not_ge

theorem quantize_delta_eq_zero_iff {d step : Nat} : (quantize d step).delta = 0 ↔ d < step >>> 2 := by
  simp [quantize_delta_eq_iff]

theorem quantize_delta_eq_seven_iff {d step : Nat} :
    (quantize d step).delta = 7 ↔ step + step >>> 1 + step >>> 2 ≤ d := by
  simp [quantize_delta_eq_iff]

/-! How far the reconstruction is from the difference (40_step_size_model.md R102). -/

theorem reconstruct_le (m : Mag) (step : Nat) :
    reconstruct m step ≤ step + step >>> 1 + step >>> 2 + step >>> 3 := by
  have hle := threshold_le m step
  rw [reconstruct_eq]; omega

theorem reconstruct_lt {step : Nat} (hstep : 1 ≤ step) (m : Mag) : reconstruct m step < 2 * step := by
  have hle := reconstruct_le m step
  simp only [Nat.shiftRight_eq_div_pow] at hle; omega

/-- Without overload, the difference exceeds the threshold of its code by at most `s1 - s2`. -/
theorem le_threshold_delta_add {d step : Nat} (hd : d < 2 * step) :
    d ≤ threshold (quantize d step).delta step + (step >>> 1 - step >>> 2) := by
  by_cases hm : (quantize d step).delta = 7
  · rw [hm, BitVec.ofNat_eq_ofNat, threshold_seven]
    simp only [Nat.shiftRight_eq_div_pow]; omega
  · have hlt := (quantize_delta_interval d step).2 hm
    have hsucc := threshold_succ_le hm step
    omega

theorem quantize_error {d step : Nat} (hd : d < 2 * step) :
    -(step >>> 3 : Nat) ≤ (d : Int) - (quantize d step).vpdiff ∧
      (d : Int) - (quantize d step).vpdiff ≤ (step >>> 1 : Nat) - (step >>> 2 : Nat) - (step >>> 3 : Nat) := by
  have hlo := (quantize_delta_interval d step).1
  have hhi := le_threshold_delta_add hd
  have hs : step >>> 2 ≤ step >>> 1 := by simp only [Nat.shiftRight_eq_div_pow]; omega
  rw [quantize_vpdiff, reconstruct_eq]; omega

/-- Settles O13: the code is 7 from its threshold on and 0 below that of 1, and the error is the excess over the
threshold, less the always-added eighth. -/
theorem quantizationErrorBounds : Obligations.QuantizationErrorBounds := by
  refine fun d step hstep => ⟨fun hd => ?_, fun hd => ?_, quantize_delta_eq_zero_iff, fun hzero => ⟨?_, ?_⟩,
    (quantize_vpdiff d step).trans_lt (reconstruct_lt hstep _)⟩
  · have hseven : (quantize d step).delta = 7 :=
      quantize_delta_eq_seven_iff.2 (by simp only [Nat.shiftRight_eq_div_pow]; omega)
    refine ⟨hseven, ?_⟩
    rw [quantize_vpdiff, hseven, reconstruct_eq, BitVec.ofNat_eq_ofNat, threshold_seven, Nat.add_comm]
  · obtain ⟨hlo, hhi⟩ := quantize_error hd
    refine ⟨hlo, hhi, ?_⟩
    simp only [Nat.shiftRight_eq_div_pow] at hlo hhi ⊢; omega
  · have hquarter := quantize_delta_eq_zero_iff.1 hzero
    rw [Nat.shiftRight_eq_div_pow] at hquarter; omega
  · rw [quantize_vpdiff, hzero, reconstruct_eq, BitVec.ofNat_eq_ofNat, threshold_zero, Nat.add_zero]

/-! The widths of the intermediates (40_step_size_model.md R91, R100). -/

theorem adjLut_eq (c : Code) : adjLut c = if c.toNat % 8 ≤ 3 then -1 else 2 * ((c.toNat % 8 : Nat) - 3 : Int) := by
  revert c; decide

theorem adjLut_mem (c : Code) : -1 ≤ adjLut c ∧ adjLut c ≤ 8 := by
  rw [adjLut_eq]; split <;> omega

/-- Settles O14: a reconstruction is below twice the step size, and an index adjustment lies in [-1, 8]. -/
theorem intermediatesFitTheirWidths : Obligations.IntermediatesFitTheirWidths := by
  intro sample pv step idx code hs hs' hpv hpv' hstep hstep' diff v w
  have hv : v < 2 * step := (quantize_vpdiff _ step).trans_lt (reconstruct_lt hstep _)
  have hw : w < 2 * step := reconstruct_lt hstep _
  have hadj := adjLut_mem code
  have hidx := idx.isLt
  exact ⟨by omega, ⟨(quantize_vpdiff _ step).trans_le (reconstruct_le _ step), hv⟩,
    ⟨reconstruct_le _ step, hw⟩, by omega, by omega, by omega, by omega⟩

/-! Saturation (40_step_size_model.md R95). -/

theorem clamp_of_lt {v lo hi : Int} (h : v < lo) : clamp v lo hi = lo := if_pos h

theorem clamp_of_gt {v lo hi : Int} (hle : lo ≤ hi) (h : hi < v) : clamp v lo hi = hi := by
  rw [clamp, if_neg (by omega), if_pos h]

theorem clamp_mono {v v' lo hi : Int} (hle : lo ≤ hi) (h : v ≤ v') : clamp v lo hi ≤ clamp v' lo hi := by
  unfold clamp; split_ifs <;> omega

/-- Settles O15: an update is a clamp of the exact result, and a clamp is monotone and leaves a value within the bounds
as it is. -/
theorem predictionUpdateSaturates : Obligations.PredictionUpdateSaturates := by
  intro cfg pv v hcfg
  have hle := hcfg.pvMin_le_pvMax
  refine ⟨fun sign => updatePred_mem hle pv sign v,
    fun sign => ⟨fun h => clamp_of_mem h.1 h.2, clamp_of_gt hle, clamp_of_lt⟩, fun hpv => ?_⟩
  have hfix : clamp pv cfg.pvMin cfg.pvMax = pv := clamp_of_mem hpv.1 hpv.2
  exact ⟨hfix.symm.trans_le (clamp_mono hle (by simp)), (clamp_mono hle (by simp)).trans_eq hfix⟩

/-! The table reads (40_step_size_model.md R98, R99). -/

theorem exec_lutStep (idx : Nat) (s : State) :
    exec (.lutStep idx) s = .next (s.respond (respOne (zextStep (device.stepTable (indexOperand idx))))) := rfl

theorem exec_lutAdj (c : Nat) (s : State) :
    exec (.lutAdj c) s = .next (s.respond (respOne (sext32 (adjLut (codeOperand c))))) := rfl

theorem zextStep_toNat {step : Nat} (h : step ≤ 2147483647) : (zextStep step).toNat = step :=
  (BitVec.toNat_ofNat ..).trans (Nat.mod_eq_of_lt (by omega))

/-- Settles O24: the device is admissible, so its step sizes have 31 bits and do not decrease. -/
theorem lutStepReadsTheStepTable : Obligations.LutStepReadsTheStepTable := by
  obtain ⟨hrange, hmono, -⟩ := device_admissible
  refine ⟨decode_commandWordOf_lutStep, fun idx s => ?_, hmono⟩
  obtain ⟨hpos, hmax⟩ := hrange (indexOperand idx)
  have hval := zextStep_toNat hmax
  refine ⟨_, _, exec_lutStep idx s, rfl, rfl, rfl, rfl, hval, hval.symm ▸ hpos, ?_⟩
  exact (BitVec.toNat_lt_iff_getLsbD_eq_false 31 (by decide)).1 (by omega) 0

theorem sext32_adjLut (c : Code) : sext32 (adjLut c) =
    if c.toNat % 8 ≤ 3 then 0xFFFFFFFF else BitVec.ofNat 32 (2 * (c.toNat % 8 - 3)) := by
  revert c; decide

theorem codeOperand_toNat_mod (c : Nat) : (codeOperand c).toNat % 8 = c % 8 := by
  rw [codeOperand, BitVec.toNat_ofNat]; omega

/-- Settles O25: the code is the low four bits of the data field, and its entry depends on its magnitude only. -/
theorem lutAdjReadsTheAdjustmentTable : Obligations.LutAdjReadsTheAdjustmentTable := by
  refine ⟨fun idx data => ?_, fun c s => ⟨_, _, exec_lutAdj c s, rfl, rfl, rfl, rfl, ?_⟩, adjLut_eq⟩
  · simp [BitVec.extractLsb'_toNat]
  · rw [sext32_adjLut, codeOperand_toNat_mod]

end Sys2Proof.Machine
end

section
/-! Proofs of the statements of 41_encoder.md: what an encode step guarantees about the new predicted value, and the
effect of the encoder's four commands. The two directions of an encode step and the packed byte of a response are
general, for the other families' proofs too. -/

namespace Sys2Proof.Machine

/-! The encoder's commands (41_encoder.md R111 to R114). -/

theorem clamp_eq_max_min {v lo hi : Int} (h : lo ≤ hi) : clamp v lo hi = max lo (min v hi) := by
  unfold clamp; split_ifs <;> omega

/-- The byte of a response is the number that its two codes make (20_memory.md R46). -/
theorem zextByte_packByte (first second : Code) :
    zextByte (packByte first second) = BitVec.ofNat 32 (first.toNat * 16 + second.toNat) := by
  rw [← packByte_toNat]; exact (BitVec.ofNat_toNat ..).symm

theorem exec_encSmp (sample : Int) (s : State) : exec (.encSmp sample) s =
    let r := encStep device s.encPv s.enc.idx sample
    .next (emitCode (s.writeEnc r.pv r.idx) r.code) := rfl

theorem exec_encEnd (s : State) : exec .encEnd s = .next (flushCode s) := rfl

theorem exec_encLdst (pv : Int) (idx : Nat) (s : State) : exec (.encLdst pv idx) s =
    .next ((s.writeEnc (clamp pv device.pvMin device.pvMax) (indexOperand idx)).respond respNone) := rfl

theorem exec_encRdst (s : State) :
    exec .encRdst s = .next (s.respond (respTwo s.enc.pv (zextIndex s.enc.idx))) :=
  congrArg Host.Outcome.next (encRdst_eq s)

/-- Settles O23: the answer is made of the two registers, and a read only answers. -/
theorem encRdstReadsTheState : Obligations.EncRdstReadsTheState :=
  ⟨decode_commandWordOf_encRdst, fun s => ⟨_, exec_encRdst s, rfl, rfl, rfl, rfl⟩⟩

/-- Settles O22: a clamped predicted value is within the bounds, so the register holds it exactly. -/
theorem encLdstLoadsTheClampedState : Obligations.EncLdstLoadsTheClampedState := by
  refine ⟨decode_commandWordOf_encLdst, fun pv idx s =>
    ⟨_, exec_encLdst pv idx s, ?_, rfl, rfl, rfl, rfl, rfl, rfl⟩⟩
  exact (State.writeEnc_encPv (clamp_inRange pv) s _).trans (clamp_eq_max_min device_admissible.pvMin_le_pvMax)

/-- Settles O21: a flush writes the two pending registers only, and only with a code pending. -/
theorem encEndFlushesThePendingNibble : Obligations.EncEndFlushesThePendingNibble := by
  refine ⟨decode_commandWordOf_encEnd, fun s => ?_⟩
  obtain ⟨hpv, hidx, hdec, hinput⟩ := flushCode_frame s
  refine ⟨_, exec_encEnd s, hpv, hidx, fun hphase => ?_, fun hphase => ?_, hdec, hinput⟩
  · rw [flushCode_pending hphase, zextByte_packByte]
    exact ⟨rfl, rfl, rfl⟩
  · rw [flushCode_empty hphase]
    exact ⟨rfl, rfl⟩

/-- Settles O20: the step's predicted value and index are written, and its code is held or completes a pair. -/
theorem encSmpEncodesAndPacks : Obligations.EncSmpEncodesAndPacks := by
  refine ⟨decode_commandWordOf_encSmp, fun sample s => ?_⟩
  intro r
  have hstored : (s.writeEnc r.pv r.idx).encPv = r.pv := State.writeEnc_encPv (encStep_inRange _ _ sample) s _
  obtain ⟨hpv, hidx, hdec, hinput⟩ := emitCode_frame (s.writeEnc r.pv r.idx) r.code
  refine ⟨emitCode (s.writeEnc r.pv r.idx) r.code, exec_encSmp sample s, (congrArg toS32 hpv).trans hstored, hidx,
    fun hphase => ?_, fun hphase => ?_, hdec, hinput⟩
  · rw [emitCode_first (s := s.writeEnc r.pv r.idx) hphase]
    exact ⟨rfl, rfl, rfl⟩
  · rw [emitCode_second (s := s.writeEnc r.pv r.idx) hphase, zextByte_packByte]
    exact ⟨rfl, rfl, rfl⟩

/-! The new predicted value of an encode step (41_encoder.md R116). -/

/-- The reconstruction passes the difference by at most the always-added eighth (40_step_size_model.md R102). -/
theorem quantize_vpdiff_le (d step : Nat) : (quantize d step).vpdiff ≤ d + step >>> 3 := by
  have hle := (quantize_delta_interval d step).1
  rw [quantize_vpdiff, reconstruct_eq]; omega

theorem signOf_encStep_code (cfg : Config) (pv : Int) (idx : StepIndex) (sample : Int) :
    signOf (encStep cfg pv idx sample).code = true ↔ sample < pv := by
  simp [encStep, signOfDiff]

section Direction

variable {cfg : Config} (hcfg : cfg.Admissible) {pv sample : Int} (hpv : PvInRange cfg pv) (idx : StepIndex)
include hcfg hpv

/-- Towards a sample that is not below it, the predicted value rises, and only the upper bound can stop it. -/
theorem encStep_pv_of_le (h : pv ≤ sample) : (encStep cfg pv idx sample).pv =
    min (pv + (quantize (sample - pv).natAbs (cfg.stepTable idx)).vpdiff) cfg.pvMax := by
  have hsign : signOfDiff (sample - pv) = false := decide_eq_false (by omega)
  obtain ⟨hmin, -⟩ := hpv
  have hle := hcfg.pvMin_le_pvMax
  simp only [encStep, updatePred, stepLut, hsign, clamp_eq_max_min hle, Bool.false_eq_true, if_false]
  omega

/-- Towards a sample below it, the predicted value falls, and only the lower bound can stop it. -/
theorem encStep_pv_of_lt (h : sample < pv) : (encStep cfg pv idx sample).pv =
    max cfg.pvMin (pv - (quantize (sample - pv).natAbs (cfg.stepTable idx)).vpdiff) := by
  have hsign : signOfDiff (sample - pv) = true := decide_eq_true (by omega)
  obtain ⟨-, hmax⟩ := hpv
  have hle := hcfg.pvMin_le_pvMax
  simp only [encStep, updatePred, stepLut, hsign, clamp_eq_max_min hle, if_true]
  omega

end Direction

/-- Settles O16: the predicted value moves towards the sample by the reconstruction of the distance, or up to a bound
that stops it, and the reconstruction misses the distance by no more than R102 allows. -/
theorem encodeStepApproachesTheSample : Obligations.EncodeStepApproachesTheSample := by
  intro cfg pv sample idx hcfg hpv step r v near
  have hover : v ≤ (sample - pv).natAbs + (step >>> 3 : Nat) :=
    Int.ofNat_le.2 (quantize_vpdiff_le (sample - pv).natAbs step)
  have hshort (hnear : near) :
      ((sample - pv).natAbs : Int) - v ≤ (step >>> 1 : Nat) - (step >>> 2 : Nat) - (step >>> 3 : Nat) :=
    (quantize_error hnear).2
  have hv : 0 ≤ v := Int.natCast_nonneg _
  have hshifts : step >>> 3 ≤ step >>> 2 ∧ step >>> 2 + step >>> 3 ≤ step >>> 1 ∧
      step >>> 1 ≤ 2 * (step >>> 2) + 1 := by
    simp only [Nat.shiftRight_eq_div_pow]; omega
  refine ⟨updatePred_mem hcfg.pvMin_le_pvMax _ _ _, signOf_encStep_code cfg pv idx sample, ?_⟩
  obtain hdir | hdir := le_or_gt pv sample
  · have hr : r.pv = min (pv + v) cfg.pvMax := encStep_pv_of_le hcfg hpv idx hdir
    obtain ⟨-, hmax⟩ := hpv
    refine ⟨fun _ => ⟨by omega, by omega⟩, fun h => absurd hdir h.not_ge, fun hnear hsample => ?_,
      fun hnear hexact => ?_⟩
    · obtain ⟨-, hsample⟩ := hsample
      exact ⟨fun _ => by have := hshort hnear; omega, fun h => absurd hdir h.not_ge⟩
    · rw [if_neg hdir.not_gt] at hexact
      obtain ⟨-, hexact⟩ := hexact
      have := hshort hnear; omega
  · have hr : r.pv = max cfg.pvMin (pv - v) := encStep_pv_of_lt hcfg hpv idx hdir
    obtain ⟨hmin, -⟩ := hpv
    refine ⟨fun h => absurd hdir h.not_gt, fun _ => ⟨by omega, by omega⟩, fun hnear hsample => ?_,
      fun hnear hexact => ?_⟩
    · obtain ⟨hsample, -⟩ := hsample
      exact ⟨fun h => absurd hdir h.not_gt, fun _ => by have := hshort hnear; omega⟩
    · rw [if_pos hdir] at hexact
      obtain ⟨hexact, -⟩ := hexact
      have := hshort hnear; omega

end Sys2Proof.Machine
end

section
/-! Proofs of the statements of 42_decoder.md: the decision intervals of the quantizer, what each of the sixteen codes
does and when the encoder emits it, the decoder's commands, and the bare codes. The rules on codes made of a magnitude
and a direction are general, for the other families' proofs too. -/

namespace Sys2Proof.Machine

/-! The decision intervals (42_decoder.md R156, 40_step_size_model.md R101). -/

@[simp] theorem threshold_two (step : Nat) : threshold 2#3 step = step >>> 1 := Nat.zero_add _

@[simp] theorem threshold_three (step : Nat) : threshold 3#3 step = step >>> 1 + step >>> 2 :=
  congrArg (· + step >>> 2) (Nat.zero_add _)

@[simp] theorem threshold_four (step : Nat) : threshold 4#3 step = step := rfl

@[simp] theorem threshold_five (step : Nat) : threshold 5#3 step = step + step >>> 2 := rfl

@[simp] theorem threshold_six (step : Nat) : threshold 6#3 step = step + step >>> 1 := rfl

/-- Below step size 4 the last test compares with 0, so it always passes (40_step_size_model.md R101). -/
theorem quantize_delta_odd {step : Nat} (hstep : step < 4) (d : Nat) : (quantize d step).delta.getLsbD 0 = true := by
  have hquarter : step >>> 1 >>> 1 = 0 := by simp only [Nat.shiftRight_eq_div_pow]; omega
  simp only [quantize, getLsbD_of_tests]
  simp [hquarter]

/-- At step size 1 all thresholds up to that of code 3 are 0, and the others are 1. -/
theorem quantize_delta_step_one (d : Nat) : (quantize d 1).delta = if d = 0 then 3 else 7 := by
  split
  · next hd => exact (quantize_delta_eq_iff d 1 3).2 (by simp [hd])
  · next hd => exact quantize_delta_eq_seven_iff.2 (Nat.pos_of_ne_zero hd)

/-- Settles O12: each code has the interval between its threshold and the next, and a zero difference is not
negative. -/
theorem quantizerDecisionIntervals : Obligations.QuantizerDecisionIntervals := by
  refine ⟨fun d step _ => ?_, fun cfg pv idx hcode => ?_⟩
  · have hinterval (m : Mag) (hm : m ≠ 7) : (quantize d step).delta = m ↔
        threshold m step ≤ d ∧ d < threshold (m + 1) step := by
      simp only [quantize_delta_eq_iff, ne_eq, hm, not_false_eq_true, forall_const]
    refine ⟨quantize_delta_eq_zero_iff, by simpa using hinterval 1 (by decide),
      by simpa using hinterval 2 (by decide), by simpa using hinterval 3 (by decide), by simpa using hinterval 4 (by decide),
      by simpa using hinterval 5 (by decide), by simpa using hinterval 6 (by decide), quantize_delta_eq_seven_iff,
      ?_, fun hstep => quantize_delta_odd (by omega) d, fun hstep => ?_⟩
    · rintro rfl
      have hlt := reconstruct_lt le_rfl (quantize d 1).delta
      exact ⟨quantize_delta_step_one d, by rw [quantize_vpdiff]; omega⟩
    · rw [Nat.shiftRight_eq_div_pow]; omega
  · exact lt_irrefl pv ((signOf_encStep_code cfg pv idx pv).1 (hcode ▸ rfl))

/-! Encoder and decoder in step (42_decoder.md R135). -/

/-- Settles O17: the code records the sign and the magnitude, and its reconstruction is the encoder's own. -/
theorem decoderStaysInLockStep : Obligations.DecoderStaysInLockStep := by
  intro cfg pv sample idx r
  simp only [r, decStep, encStep, magOf_codeOf, signOf_codeOf, quantize_vpdiff]

/-! The rows of the sixteen codes (42_decoder.md R140 to R155). -/

theorem clampIndex_val (i : Int) : ((clampIndex i).val : Int) = clamp i 0 88 := by
  obtain ⟨hlo, hhi⟩ := clamp_mem (v := i) (lo := 0) (hi := 88) (by decide)
  rw [clampIndex, indexOperand_val]; omega

theorem codeOf_inj {m m' : Mag} {down down' : Bool} : codeOf m down = codeOf m' down' ↔ m = m' ∧ down = down' :=
  ⟨fun h => ⟨by simpa using congrArg magOf h, by simpa using congrArg signOf h⟩, by rintro ⟨rfl, rfl⟩; rfl⟩

/-- The encoder emits a code when the sample lies in its direction and the distance in its interval. -/
theorem encStep_code_eq_iff (cfg : Config) (pv : Int) (idx : StepIndex) (sample : Int) (m : Mag) (down : Bool) :
    (encStep cfg pv idx sample).code = codeOf m down ↔
      (down = true ↔ sample < pv) ∧ threshold m (cfg.stepTable idx) ≤ (sample - pv).natAbs ∧
        (m ≠ 7 → (sample - pv).natAbs < threshold (m + 1) (cfg.stepTable idx)) := by
  have hsign : signOfDiff (sample - pv) = down ↔ (down = true ↔ sample < pv) := by
    rw [Bool.eq_iff_iff, signOfDiff, decide_eq_true_iff, sub_neg]; exact iff_comm
  rw [← hsign, ← quantize_delta_eq_iff, and_comm]
  exact codeOf_inj

/-- The end of the interval of a magnitude code, where it has one (42_decoder.md R156). -/
def upperThreshold (m : Mag) : Option (Nat → Nat) := if m = 7 then none else some (threshold (m + 1))

theorem forall_mem_upperThreshold {m : Mag} {p : (Nat → Nat) → Prop} :
    (∀ h ∈ upperThreshold m, p h) ↔ (m ≠ 7 → p (threshold (m + 1))) := by
  unfold upperThreshold; split
  · next hm => simp [hm]
  · next hm => exact ⟨fun h _ => h _ rfl, fun h _ hmem => Option.mem_some.1 hmem ▸ h hm⟩

/-- The row of the code with magnitude `m` in either direction, in the terms of its table. -/
theorem codeRow_of_mag (m : Mag) (down : Bool) {vpdiff lo : Nat → Nat} {adj : Int} {hi : Option (Nat → Nat)}
    (hvpdiff : reconstruct m = vpdiff) (hadj : adjLut (codeOf m down) = adj) (hlo : threshold m = lo)
    (hhi : upperThreshold m = hi) : CodeRow (codeOf m down) down vpdiff adj lo hi := by
  subst hvpdiff hadj hlo hhi
  intro cfg pv idx
  refine ⟨by simp only [decStep, updatePred, stepLut, magOf_codeOf, signOf_codeOf], rfl, clampIndex_val _,
    fun sample => ?_⟩
  rw [forall_mem_upperThreshold]
  exact encStep_code_eq_iff cfg pv idx sample m down

/-- The eight rows of one direction: the two directions share all but the sign. -/
theorem codeRows (down : Bool) :
    CodeRow (codeOf 0 down) down (fun p => p >>> 3) (-1) (fun _ => 0) (some fun p => p >>> 2) ∧
    CodeRow (codeOf 1 down) down (fun p => p >>> 3 + p >>> 2) (-1) (fun p => p >>> 2) (some fun p => p >>> 1) ∧
    CodeRow (codeOf 2 down) down (fun p => p >>> 3 + p >>> 1) (-1) (fun p => p >>> 1)
      (some fun p => p >>> 1 + p >>> 2) ∧
    CodeRow (codeOf 3 down) down (fun p => p >>> 3 + p >>> 1 + p >>> 2) (-1) (fun p => p >>> 1 + p >>> 2)
      (some fun p => p) ∧
    CodeRow (codeOf 4 down) down (fun p => p >>> 3 + p) 2 (fun p => p) (some fun p => p + p >>> 2) ∧
    CodeRow (codeOf 5 down) down (fun p => p >>> 3 + p + p >>> 2) 4 (fun p => p + p >>> 2)
      (some fun p => p + p >>> 1) ∧
    CodeRow (codeOf 6 down) down (fun p => p >>> 3 + p + p >>> 1) 6 (fun p => p + p >>> 1)
      (some fun p => p + p >>> 1 + p >>> 2) ∧
    CodeRow (codeOf 7 down) down (fun p => p >>> 3 + p + p >>> 1 + p >>> 2) 8
      (fun p => p + p >>> 1 + p >>> 2) none := by
  have hadj (m : Mag) : adjLut (codeOf m down) = adjLut (codeOf m false) := by
    revert m down; decide
  exact ⟨codeRow_of_mag 0 down rfl (hadj 0) rfl (congrArg some (funext threshold_one)),
    codeRow_of_mag 1 down rfl (hadj 1) (funext threshold_one) (congrArg some (funext threshold_two)),
    codeRow_of_mag 2 down rfl (hadj 2) (funext threshold_two) (congrArg some (funext threshold_three)),
    codeRow_of_mag 3 down rfl (hadj 3) (funext threshold_three) (congrArg some (funext threshold_four)),
    codeRow_of_mag 4 down rfl (hadj 4) (funext threshold_four) (congrArg some (funext threshold_five)),
    codeRow_of_mag 5 down rfl (hadj 5) (funext threshold_five) (congrArg some (funext threshold_six)),
    codeRow_of_mag 6 down rfl (hadj 6) (funext threshold_six) (congrArg some (funext threshold_seven)),
    codeRow_of_mag 7 down rfl (hadj 7) (funext threshold_seven) rfl⟩

/-- Settles O18: the codes 0 to 7 are the eight magnitudes with the sign bit clear. -/
theorem codesZeroToSevenMoveUp : Obligations.CodesZeroToSevenMoveUp := codeRows false

/-- Settles O19: the codes 8 to 15 are the eight magnitudes with the sign bit set. -/
theorem codesEightToFifteenMoveDown : Obligations.CodesEightToFifteenMoveDown := codeRows true

/-! The decoder's commands (42_decoder.md R131 to R134). -/

theorem exec_decPair (b : Nat) (s : State) : exec (.decPair b) s =
    let r0 := decStep device s.decPv s.dec.idx (highCode b)
    let r1 := decStep device r0.pv r0.idx (lowCode b)
    .next ((s.writeDec r1.pv r1.idx).respond (respTwo (fromS32 r0.sample) (fromS32 r1.sample))) := rfl

theorem exec_decLdst (pv : Int) (idx : Nat) (s : State) : exec (.decLdst pv idx) s =
    .next ((s.writeDec (clamp pv device.pvMin device.pvMax) (indexOperand idx)).respond respNone) := rfl

theorem exec_decRdst (s : State) :
    exec .decRdst s = .next (s.respond (respTwo s.dec.pv (zextIndex s.dec.idx))) :=
  congrArg Host.Outcome.next (decRdst_eq s)

/-- The sample of a decode step is within the device's bounds, so a response carries it exactly. -/
theorem toS32_fromS32_decStep_sample (pv : Int) (idx : StepIndex) (c : Code) :
    toS32 (fromS32 (decStep device pv idx c).sample) = (decStep device pv idx c).sample :=
  toS32_fromS32_of_inRange (decStep_inRange pv idx c)

/-- Decoding one code leaves the step's predicted value in the register, exactly. -/
theorem decodeOne_decPv (c : Code) (s : State) :
    (decodeOne device c s).decPv = (decStep device s.decPv s.dec.idx c).pv :=
  State.writeDec_decPv (decStep_inRange _ _ c) s _

/-- Settles O26: both steps stay within the bounds, so the register and the response hold their results exactly. -/
theorem decPairDecodesHighThenLow : Obligations.DecPairDecodesHighThenLow := by
  refine ⟨fun idx data => by simp [BitVec.extractLsb'_toNat], fun b s => ?_⟩
  intro r0 r1
  exact ⟨_, _, _, exec_decPair b s, State.writeDec_decPv (decStep_inRange _ _ _) s _, rfl, rfl,
    toS32_fromS32_decStep_sample _ _ _, toS32_fromS32_decStep_sample _ _ _, rfl, rfl⟩

/-- Settles O27: the command decodes the high code of its byte and names no other part of it. -/
theorem decHighDecodesOnlyTheHighCode : Obligations.DecHighDecodesOnlyTheHighCode := by
  refine ⟨fun idx data => by simp [BitVec.extractLsb'_toNat], fun b s => ?_, fun b b' s hb => ?_⟩
  · exact ⟨_, _, exec_decHigh b s, decodeOne_decPv _ s, rfl, rfl, toS32_fromS32_decStep_sample _ _ _, rfl, rfl⟩
  · rw [exec_decHigh, exec_decHigh, highCode, highCode, hb]

/-- Settles O28: a clamped predicted value is within the bounds, so the register holds it exactly. -/
theorem decLdstLoadsTheClampedState : Obligations.DecLdstLoadsTheClampedState := by
  refine ⟨decode_commandWordOf_decLdst, fun pv idx s => ⟨_, exec_decLdst pv idx s, ?_, rfl, rfl, rfl, rfl⟩⟩
  exact (State.writeDec_decPv (clamp_inRange pv) s _).trans (clamp_eq_max_min device_admissible.pvMin_le_pvMax)

/-- Settles O29: the answer is made of the two registers, and a read only answers. -/
theorem decRdstReadsTheState : Obligations.DecRdstReadsTheState :=
  ⟨decode_commandWordOf_decRdst, fun s => ⟨_, exec_decRdst s, rfl, rfl, rfl, rfl⟩⟩

/-! The bare codes, an item of the model's choice (log entry 4). -/

/-- What the row of a code says of one decode step on the decoder's registers. -/
theorem codeMoved_decodeOne {c : Code} {down : Bool} {vpdiff lo : Nat → Nat} {adj : Int} {hi : Option (Nat → Nat)}
    (hrow : CodeRow c down vpdiff adj lo hi) (s : State) :
    CodeMoved s (decodeOne device c s)
      (if down then -(vpdiff (device.stepTable s.dec.idx) : Int) else vpdiff (device.stepTable s.dec.idx)) adj := by
  obtain ⟨hpv, -, hidx, -⟩ := hrow device s.decPv s.dec.idx
  refine ⟨?_, hidx, rfl, rfl, rfl⟩
  rw [decodeOne_decPv, hpv]
  cases down <;> rfl

/-- Settles O31: the rows of the codes 0 to 7 (O18), on the decoder's registers. -/
theorem nibbleCodesMoveTheDecoderUp : Obligations.NibbleCodesMoveTheDecoderUp := by
  intro s
  obtain ⟨h0, h1, h2, h3, h4, h5, h6, h7⟩ := codesZeroToSevenMoveUp
  exact ⟨⟨_, rfl, codeMoved_decodeOne h0 s⟩, ⟨_, rfl, codeMoved_decodeOne h1 s⟩,
    ⟨_, rfl, codeMoved_decodeOne h2 s⟩, ⟨_, rfl, codeMoved_decodeOne h3 s⟩,
    ⟨_, rfl, codeMoved_decodeOne h4 s⟩, ⟨_, rfl, codeMoved_decodeOne h5 s⟩,
    ⟨_, rfl, codeMoved_decodeOne h6 s⟩, ⟨_, rfl, codeMoved_decodeOne h7 s⟩⟩

/-- Settles O32: the rows of the codes 8 to 15 (O19), on the decoder's registers. -/
theorem nibbleCodesMoveTheDecoderDown : Obligations.NibbleCodesMoveTheDecoderDown := by
  intro s
  obtain ⟨h8, h9, h10, h11, h12, h13, h14, h15⟩ := codesEightToFifteenMoveDown
  exact ⟨⟨_, rfl, codeMoved_decodeOne h8 s⟩, ⟨_, rfl, codeMoved_decodeOne h9 s⟩,
    ⟨_, rfl, codeMoved_decodeOne h10 s⟩, ⟨_, rfl, codeMoved_decodeOne h11 s⟩,
    ⟨_, rfl, codeMoved_decodeOne h12 s⟩, ⟨_, rfl, codeMoved_decodeOne h13 s⟩,
    ⟨_, rfl, codeMoved_decodeOne h14 s⟩, ⟨_, rfl, codeMoved_decodeOne h15 s⟩⟩

/-- Executing a bare code is one decode step on it. -/
theorem exec_decode_nibble (c : Code) (s : State) : exec (decode (.nibble c)) s = .next (decodeOne device c s) := by
  obtain ⟨c⟩ := c
  fin_cases c <;> rfl

/-- The high code of a byte is its quotient by 16, whatever its low nibble (30_encoding.md R67). -/
theorem highCode_of_nibbles (c : Code) {low : Nat} (hlow : low < 16) : highCode (c.toNat * 16 + low) = c := by
  rw [highCode, show (c.toNat * 16 + low) / 16 = c.toNat by omega, BitVec.ofNat_toNat, BitVec.setWidth_eq]

/-- Settles O33: both are one decode step on the code. -/
theorem bareCodeIsDecHighOfItsByte : Obligations.BareCodeIsDecHighOfItsByte := by
  intro c low s hlow
  rw [exec_decode_nibble, exec_decHigh, highCode_of_nibbles c hlow]

end Sys2Proof.Machine
end

section
/-! Proofs of the statements of 43_buffer_functions_and_laws.md: the packing of codes into bytes and back, the buffer
functions as folds over codes, the laws of splitting and of the round trip, and the expansions as runs of commands. -/

namespace Sys2Proof

theorem Config.Admissible.stepTable_mem {cfg : Config} (h : cfg.Admissible) (i : StepIndex) :
    1 ≤ cfg.stepTable i ∧ cfg.stepTable i ≤ 2147483647 := h.1 i

end Sys2Proof

namespace Sys2Proof.Machine

/-! Packing codes into bytes and reading them back (R171, R174, 20_memory.md R46, R47). -/

theorem packCodes_length (cs : List Code) : (packCodes cs).length = (cs.length + 1) / 2 := by
  induction cs using packCodes.induct with
  | case1 => rfl
  | case2 c => simp [packCodes]
  | case3 c c' cs ih => simp only [packCodes, List.length_cons, ih]; omega

/-- Whole bytes stay whole whatever follows them. -/
theorem packCodes_append_of_even {cs : List Code} (h : cs.length % 2 = 0) (ds : List Code) :
    packCodes (cs ++ ds) = packCodes cs ++ packCodes ds := by
  induction cs using packCodes.induct with
  | case1 => rfl
  | case2 c => simp at h
  | case3 c c' cs ih =>
    have hrest : cs.length % 2 = 0 := by simp only [List.length_cons] at h; omega
    exact congrArg (packByte c c' :: ·) (ih hrest)

/-- The last byte of an odd number of codes is the last code, padded. -/
theorem packCodes_getLast?_of_odd {cs : List Code} (h : cs.length % 2 = 1) :
    ∃ c, cs.getLast? = some c ∧ (packCodes cs).getLast? = some (packByte c 0) := by
  obtain rfl | ⟨init, c, rfl⟩ := cs.eq_nil_or_concat'
  · simp at h
  · have hinit : init.length % 2 = 0 := by rw [List.length_append, List.length_singleton] at h; omega
    exact ⟨c, by simp, by simp [packCodes_append_of_even hinit, packCodes]⟩

/-- Reading the nibbles back gives the codes, and the pad nibble after an odd number of them. -/
theorem codesOfBytes_packCodes (cs : List Code) :
    codesOfBytes (packCodes cs) = cs ++ List.replicate (cs.length % 2) 0 := by
  induction cs using packCodes.induct with
  | case1 => rfl
  | case2 c => simp [packCodes, codesOfBytes]
  | case3 c c' cs ih => simp [packCodes, codesOfBytes, ih, Nat.add_assoc]

theorem codesOfBytes_length (bs : List Byte) : (codesOfBytes bs).length = 2 * bs.length := by
  induction bs with
  | nil => rfl
  | cons b bs ih => simp only [codesOfBytes, List.length_cons, ih]; omega

theorem codesOfBytes_append (bs bs' : List Byte) :
    codesOfBytes (bs ++ bs') = codesOfBytes bs ++ codesOfBytes bs' := by
  induction bs with
  | nil => rfl
  | cons b bs ih => simp [codesOfBytes, ih]

theorem codesOfBytes_drop (k : Nat) (bs : List Byte) :
    codesOfBytes (bs.drop k) = (codesOfBytes bs).drop (2 * k) := by
  induction bs generalizing k with
  | nil => simp [codesOfBytes]
  | cons b bs ih => cases k <;> simp [codesOfBytes, Nat.mul_add, ih]

theorem codesOfBytes_take (k : Nat) (bs : List Byte) :
    codesOfBytes (bs.take k) = (codesOfBytes bs).take (2 * k) := by
  induction bs generalizing k with
  | nil => simp [codesOfBytes]
  | cons b bs ih => cases k <;> simp [codesOfBytes, Nat.mul_add, ih]

/-! The encode loop: its final Codec State and its codes (R170). -/

section Encode

variable (cfg : Config) (pv : Int) (idx : StepIndex)

theorem encodeCodes_length (xs : List Int) : (encodeCodes cfg pv idx xs).length = xs.length := by
  induction xs generalizing pv idx with
  | nil => rfl
  | cons x xs ih => exact congrArg (· + 1) (ih ..)

/-- The pending code decides the bytes only. -/
theorem encodeFrom_codec (pending : Option Code) (xs : List Int) :
    (encodeFrom cfg pending pv idx xs).pv = (encodeBuffer cfg xs pv idx).pv ∧
      (encodeFrom cfg pending pv idx xs).idx = (encodeBuffer cfg xs pv idx).idx := by
  induction xs generalizing pending pv idx with
  | nil => exact ⟨rfl, rfl⟩
  | cons x xs ih =>
    cases pending with
    | none => exact ⟨rfl, rfl⟩
    | some c =>
      obtain ⟨hpv, hidx⟩ := ih (encStep cfg pv idx x).pv (encStep cfg pv idx x).idx (some (encStep cfg pv idx x).code)
      exact ⟨hpv.symm, hidx.symm⟩

theorem encodeBuffer_cons_pv (x : Int) (xs : List Int) : (encodeBuffer cfg (x :: xs) pv idx).pv =
    (encodeBuffer cfg xs (encStep cfg pv idx x).pv (encStep cfg pv idx x).idx).pv :=
  (encodeFrom_codec cfg _ _ (some (encStep cfg pv idx x).code) xs).1

theorem encodeBuffer_cons_idx (x : Int) (xs : List Int) : (encodeBuffer cfg (x :: xs) pv idx).idx =
    (encodeBuffer cfg xs (encStep cfg pv idx x).pv (encStep cfg pv idx x).idx).idx :=
  (encodeFrom_codec cfg _ _ (some (encStep cfg pv idx x).code) xs).2

/-- A call that continues from where another ended gives the state and the codes of the one long call (R177). -/
theorem encode_append (xs ys : List Int) :
    let e1 := encodeBuffer cfg xs pv idx
    (encodeBuffer cfg (xs ++ ys) pv idx).pv = (encodeBuffer cfg ys e1.pv e1.idx).pv ∧
    (encodeBuffer cfg (xs ++ ys) pv idx).idx = (encodeBuffer cfg ys e1.pv e1.idx).idx ∧
    encodeCodes cfg pv idx (xs ++ ys) = encodeCodes cfg pv idx xs ++ encodeCodes cfg e1.pv e1.idx ys := by
  induction xs generalizing pv idx with
  | nil => exact ⟨rfl, rfl, rfl⟩
  | cons x xs ih =>
    obtain ⟨hpv, hidx, hcodes⟩ := ih (encStep cfg pv idx x).pv (encStep cfg pv idx x).idx
    simp only [List.cons_append, encodeBuffer_cons_pv, encodeBuffer_cons_idx, encodeCodes]
    exact ⟨hpv, hidx, congrArg _ hcodes⟩

/-- Every step leaves a predicted value within the bounds, whatever the sample. -/
theorem encodeBuffer_pv_inRange (hcfg : cfg.Admissible) {pv : Int} (hpv : PvInRange cfg pv) (xs : List Int) :
    PvInRange cfg (encodeBuffer cfg xs pv idx).pv := by
  induction xs generalizing pv idx with
  | nil => exact hpv
  | cons x xs ih =>
    rw [encodeBuffer_cons_pv]
    exact ih _ (updatePred_mem hcfg.pvMin_le_pvMax ..)

theorem encodeBuffer_bytes_length (xs : List Int) :
    (encodeBuffer cfg xs pv idx).bytes.length = (xs.length + 1) / 2 := by
  rw [encodeBuffer_bytes, packCodes_length, encodeCodes_length]

theorem codesOfBytes_encodeBuffer (xs : List Int) : codesOfBytes (encodeBuffer cfg xs pv idx).bytes =
    encodeCodes cfg pv idx xs ++ List.replicate (xs.length % 2) 0 := by
  rw [encodeBuffer_bytes, codesOfBytes_packCodes, encodeCodes_length]

/-- The last byte of a call on an odd number of samples is its last code, padded. -/
theorem encodeBuffer_getLast?_of_odd {xs : List Int} (h : xs.length % 2 = 1) :
    ∃ c, (encodeCodes cfg pv idx xs).getLast? = some c ∧
      (encodeBuffer cfg xs pv idx).bytes.getLast? = some (packByte c 0) := by
  rw [encodeBuffer_bytes]
  exact packCodes_getLast?_of_odd (by rwa [encodeCodes_length])

end Encode

/-- Settles O47: the bytes are the packed codes, one code for each sample. -/
theorem encodedLengthAndPadding : Obligations.EncodedLengthAndPadding := by
  refine fun cfg xs pv idx => ⟨encodeBuffer_bytes_length cfg pv idx xs, by rintro x rfl; rfl, fun hodd => ?_⟩
  obtain ⟨c, -, hlast⟩ := encodeBuffer_getLast?_of_odd cfg pv idx hodd
  exact ⟨_, hlast, by simp [packByte_toNat]⟩

/-! The decode loop (R171). -/

theorem decodeBuffer_eq_some {bytes : List Byte} {n : Nat} (h : n ≤ 2 * bytes.length) (cfg : Config) (pv : Int)
    (idx : StepIndex) :
    decodeBuffer cfg bytes pv idx n = some (decodeCodes cfg pv idx ((codesOfBytes bytes).take n)) := if_pos h

theorem decodeBuffer_eq_none {bytes : List Byte} {n : Nat} (h : 2 * bytes.length < n) (cfg : Config) (pv : Int)
    (idx : StepIndex) : decodeBuffer cfg bytes pv idx n = none := if_neg (by omega)

/-- Settles O54: the call checks its count against the bytes first. -/
theorem countAboveTheBytesIsRefused : Obligations.CountAboveTheBytesIsRefused :=
  fun cfg _ pv idx _ h => decodeBuffer_eq_none h cfg pv idx

/-- Settles O50: both loops start with nothing to take. -/
theorem emptyCallsDoNothing : Obligations.EmptyCallsDoNothing :=
  fun cfg pv idx bytes => ⟨rfl, decodeBuffer_eq_some (Nat.zero_le (2 * bytes.length)) cfg pv idx⟩

/-- Decoding goes on from the state that the codes so far have left. -/
theorem decodeCodes_append (cfg : Config) (pv : Int) (idx : StepIndex) (cs ds : List Code) :
    let d1 := decodeCodes cfg pv idx cs
    let d2 := decodeCodes cfg d1.pv d1.idx ds
    decodeCodes cfg pv idx (cs ++ ds) = { d2 with samples := d1.samples ++ d2.samples } := by
  induction cs generalizing pv idx with
  | nil => rfl
  | cons c cs ih => simp [decodeCodes, ih]

theorem decodeCodes_samples_length (cfg : Config) (pv : Int) (idx : StepIndex) (cs : List Code) :
    (decodeCodes cfg pv idx cs).samples.length = cs.length := by
  induction cs generalizing pv idx with
  | nil => rfl
  | cons c cs ih => exact congrArg (· + 1) (ih ..)

theorem decodeCodes_inRange {cfg : Config} (hcfg : cfg.Admissible) {pv : Int} (hpv : PvInRange cfg pv)
    (idx : StepIndex) (cs : List Code) :
    (∀ x ∈ (decodeCodes cfg pv idx cs).samples, PvInRange cfg x) ∧ PvInRange cfg (decodeCodes cfg pv idx cs).pv := by
  induction cs generalizing pv idx with
  | nil => exact ⟨by simp [decodeCodes], hpv⟩
  | cons c cs ih =>
    have hstep : PvInRange cfg (decStep cfg pv idx c).pv := updatePred_mem hcfg.pvMin_le_pvMax ..
    obtain ⟨hsamples, hfinal⟩ := ih hstep (decStep cfg pv idx c).idx
    exact ⟨List.forall_mem_cons.2 ⟨hstep, hsamples⟩, hfinal⟩

/-- Settles O53: each code gives one sample, and each step's predicted value is within the bounds. -/
theorem garbageDecodesWithinTheBounds : Obligations.GarbageDecodesWithinTheBounds := by
  refine fun cfg bytes xs pv idx n hcfg hpv => ⟨fun hn => ?_, encodeBuffer_pv_inRange cfg idx hcfg hpv xs⟩
  refine ⟨_, decodeBuffer_eq_some hn cfg pv idx, ?_, decodeCodes_inRange hcfg hpv idx _⟩
  rw [decodeCodes_samples_length, List.length_take, codesOfBytes_length, Nat.min_eq_left hn]

/-! The round trip (R181, R182). -/

/-- Each code of the encoder moves the decoder as the sample moved the encoder (42_decoder.md R135). -/
theorem decodeCodes_encodeCodes (cfg : Config) (pv : Int) (idx : StepIndex) (xs : List Int) :
    decodeCodes cfg pv idx (encodeCodes cfg pv idx xs) =
      { samples := predictions cfg pv idx xs
        pv := (encodeBuffer cfg xs pv idx).pv
        idx := (encodeBuffer cfg xs pv idx).idx } := by
  induction xs generalizing pv idx with
  | nil => rfl
  | cons x xs ih =>
    have hstep := decoderStaysInLockStep cfg pv x idx
    simp only [encodeCodes, decodeCodes, hstep, ih, predictions, encodeBuffer_cons_pv, encodeBuffer_cons_idx]

/-- Settles O51: the first codes of the bytes are the encoder's, and the count leaves out the pad nibble. -/
theorem decodingReproducesThePredictions : Obligations.DecodingReproducesThePredictions := by
  intro cfg xs pv idx e
  have hcount : xs.length ≤ 2 * e.bytes.length := by rw [encodeBuffer_bytes_length]; omega
  rw [decodeBuffer_eq_some hcount, codesOfBytes_encodeBuffer,
    List.take_left' (encodeCodes_length cfg pv idx xs), decodeCodes_encodeCodes]

section RoundTripError

variable {cfg : Config} (hcfg : cfg.Admissible) {pv sample : Int} (hpv : PvInRange cfg pv)
  (hsample : PvInRange cfg sample) (idx : StepIndex)
include hcfg hpv hsample

/-- Without slope overload the clamp only brings the predicted value nearer to a sample within the bounds. -/
theorem encStep_error_of_near (hnear : (sample - pv).natAbs < 2 * cfg.stepTable idx) :
    (sample - (encStep cfg pv idx sample).pv).natAbs ≤ cfg.stepTable idx >>> 2 + 1 := by
  obtain ⟨-, -, hup, hdown, hshort, -⟩ := encodeStepApproachesTheSample cfg pv sample idx hcfg hpv
  obtain ⟨hshortUp, hshortDown⟩ := hshort hnear hsample
  simp only [Nat.shiftRight_eq_div_pow] at *
  obtain hdir | hdir := le_or_gt pv sample
  · have := hup hdir; have := hshortUp hdir; omega
  · have := hdown hdir; have := hshortDown hdir; omega

/-- In slope overload the predicted value stops short of the sample, so a sample within the bounds keeps the clamp
from acting. -/
theorem encStep_error_of_overload (hover : 2 * cfg.stepTable idx ≤ (sample - pv).natAbs) :
    magOf (encStep cfg pv idx sample).code = 7 ∧
    (sample - (encStep cfg pv idx sample).pv).natAbs = (sample - pv).natAbs -
      (cfg.stepTable idx + cfg.stepTable idx >>> 1 + cfg.stepTable idx >>> 2 + cfg.stepTable idx >>> 3) := by
  obtain ⟨hpos, -⟩ := hcfg.stepTable_mem idx
  obtain ⟨hfull, -, -, -, hlt⟩ := quantizationErrorBounds (sample - pv).natAbs (cfg.stepTable idx) hpos
  obtain ⟨hseven, hvpdiff⟩ := hfull hover
  refine ⟨(magOf_codeOf _ _).trans hseven, ?_⟩
  obtain ⟨hmin, hmax⟩ := hsample
  rw [← hvpdiff]
  obtain hdir | hdir := le_or_gt pv sample
  · rw [encStep_pv_of_le hcfg hpv idx hdir]; omega
  · rw [encStep_pv_of_lt hcfg hpv idx hdir]; omega

end RoundTripError

/-- Settles O52: the last prediction is one encode step from the state after the samples before it, which is within
the bounds. -/
theorem roundTripErrorBounds : Obligations.RoundTripErrorBounds := by
  intro cfg xs x pv idx hcfg hpv _ hx before q
  have hbefore : PvInRange cfg before.pv := encodeBuffer_pv_inRange cfg idx hcfg hpv xs
  obtain ⟨hq, -⟩ : q = (encStep cfg before.pv before.idx x).pv ∧ _ := encode_append cfg pv idx xs [x]
  rw [hq]
  refine ⟨encStep_error_of_near hcfg hbefore hx before.idx, fun hover => ?_⟩
  obtain ⟨hmag, herror⟩ := encStep_error_of_overload hcfg hbefore hx before.idx hover
  exact ⟨hmag, herror.le, fun _ => herror⟩

/-! Splitting a call (R177). -/

/-- A sequence that agrees with its own shift by one place, from a 0 on, is all 0. -/
theorem eq_zero_of_shift {cs ps ps' : List Code} (h : 0 :: (cs ++ ps) = cs ++ ps') : ∀ c ∈ cs, c = 0 := by
  induction cs with
  | nil => simp
  | cons c cs ih =>
    obtain ⟨rfl, h⟩ := List.cons.inj h
    exact List.forall_mem_cons.2 ⟨rfl, ih h⟩

section Split

variable (cfg : Config) (pv : Int) (idx : StepIndex) (xs ys : List Int)

theorem encodeBuffer_bytes_append_of_even (heven : xs.length % 2 = 0) :
    let e1 := encodeBuffer cfg xs pv idx
    e1.bytes ++ (encodeBuffer cfg ys e1.pv e1.idx).bytes = (encodeBuffer cfg (xs ++ ys) pv idx).bytes := by
  intro e1
  obtain ⟨-, -, hcodes⟩ := encode_append cfg pv idx xs ys
  rw [encodeBuffer_bytes, encodeBuffer_bytes, encodeBuffer_bytes, hcodes,
    packCodes_append_of_even (by rwa [encodeCodes_length])]

/-- The nibbles of the one call: no pad between the two parts. -/
theorem codesOfBytes_encodeBuffer_append :
    let e1 := encodeBuffer cfg xs pv idx
    codesOfBytes (encodeBuffer cfg (xs ++ ys) pv idx).bytes = encodeCodes cfg pv idx xs ++
      (encodeCodes cfg e1.pv e1.idx ys ++ List.replicate ((xs ++ ys).length % 2) 0) := by
  intro e1
  obtain ⟨-, -, hcodes⟩ := encode_append cfg pv idx xs ys
  rw [codesOfBytes_encodeBuffer, hcodes, List.append_assoc]

/-- The nibbles of the two calls after an odd first part: a pad between the two parts. -/
theorem codesOfBytes_two_calls_of_odd (hodd : xs.length % 2 = 1) :
    let e1 := encodeBuffer cfg xs pv idx
    codesOfBytes (e1.bytes ++ (encodeBuffer cfg ys e1.pv e1.idx).bytes) = encodeCodes cfg pv idx xs ++
      0 :: (encodeCodes cfg e1.pv e1.idx ys ++ List.replicate (ys.length % 2) 0) := by
  intro e1
  rw [codesOfBytes_append, codesOfBytes_encodeBuffer, codesOfBytes_encodeBuffer, hodd]
  simp

/-- After an odd first part the bytes differ as soon as the pad nibble displaces a code other than 0. -/
theorem encodeBuffer_bytes_ne_of_odd (hodd : xs.length % 2 = 1) :
    let e1 := encodeBuffer cfg xs pv idx
    (∃ c ∈ encodeCodes cfg e1.pv e1.idx ys, c ≠ 0) →
      e1.bytes ++ (encodeBuffer cfg ys e1.pv e1.idx).bytes ≠ (encodeBuffer cfg (xs ++ ys) pv idx).bytes := by
  rintro e1 ⟨c, hc, hne⟩ hbytes
  have hcodes := congrArg codesOfBytes hbytes
  rw [codesOfBytes_two_calls_of_odd cfg pv idx xs ys hodd, codesOfBytes_encodeBuffer_append] at hcodes
  exact hne (eq_zero_of_shift (List.append_cancel_left hcodes) c hc)

/-- Where code `j` of the second part stands after an odd first part: its place in the one call, in the second call,
and, one nibble later than in the one call, in the two calls together. -/
theorem nibble_places_of_odd (hodd : xs.length % 2 = 1) {j : Nat} {c : Code} :
    let e1 := encodeBuffer cfg xs pv idx
    let e2 := encodeBuffer cfg ys e1.pv e1.idx
    (encodeCodes cfg e1.pv e1.idx ys)[j]? = some c →
    (codesOfBytes (encodeBuffer cfg (xs ++ ys) pv idx).bytes)[xs.length + j]? = some c ∧
      (codesOfBytes e2.bytes)[j]? = some c ∧
      (codesOfBytes (e1.bytes ++ e2.bytes))[xs.length + 1 + j]? = some c := by
  intro e1 e2 hj
  obtain ⟨hlt, -⟩ := List.getElem?_eq_some_iff.1 hj
  have hpadded (k : Nat) : (encodeCodes cfg e1.pv e1.idx ys ++ List.replicate k 0)[j]? = some c := by
    rw [List.getElem?_append_left hlt, hj]
  have hlen := encodeCodes_length cfg pv idx xs
  refine ⟨?_, ?_, ?_⟩
  · rw [codesOfBytes_encodeBuffer_append, ← hlen, List.getElem?_append_right (Nat.le_add_right ..),
      Nat.add_sub_cancel_left]
    exact hpadded _
  · rw [codesOfBytes_encodeBuffer]; exact hpadded _
  · rw [codesOfBytes_two_calls_of_odd cfg pv idx xs ys hodd, ← hlen, Nat.add_assoc, Nat.add_comm 1,
      List.getElem?_append_right (Nat.le_add_right ..), Nat.add_sub_cancel_left, List.getElem?_cons_succ]
    exact hpadded _

end Split

/-- Some 32-bit sample has a code other than 0: the greatest one is farther than a step above a negative predicted
value, and the least one is below every other. -/
theorem exists_isS32_encStep_code_ne_zero {cfg : Config} (hcfg : cfg.Admissible) (pv : Int) (idx : StepIndex) :
    ∃ x, isS32 x = true ∧ (encStep cfg pv idx x).code ≠ 0 := by
  obtain ⟨-, hstep⟩ := hcfg.stepTable_mem idx
  obtain hneg | hnonneg := lt_or_ge pv 0
  · refine ⟨2147483647, by decide, fun hcode => ?_⟩
    have hlt := quantize_delta_eq_zero_iff.1 ((magOf_codeOf _ _).symm.trans (congrArg magOf hcode))
    rw [stepLut, Nat.shiftRight_eq_div_pow] at hlt; omega
  · refine ⟨-2147483648, by decide, fun hcode => ?_⟩
    have hsign := (signOf_encStep_code cfg pv idx (-2147483648)).2 (by omega)
    rw [hcode] at hsign
    exact absurd hsign (by decide)

/-- R177 (d): an odd first part and an even second part with the same number of bytes and other bytes. -/
theorem exists_odd_split_with_other_bytes {cfg : Config} (hcfg : cfg.Admissible) (pv : Int) (idx : StepIndex) :
    ∃ xs ys : List Int, xs.length % 2 = 1 ∧ ys.length % 2 = 0 ∧ ys ≠ [] ∧ (∀ x ∈ xs ++ ys, isS32 x = true) ∧
      let e := encodeBuffer cfg (xs ++ ys) pv idx
      let e1 := encodeBuffer cfg xs pv idx
      let e2 := encodeBuffer cfg ys e1.pv e1.idx
      (e1.bytes ++ e2.bytes).length = e.bytes.length ∧ e1.bytes ++ e2.bytes ≠ e.bytes := by
  let e1 := encodeBuffer cfg [0] pv idx
  obtain ⟨y, hy, hcode⟩ := exists_isS32_encStep_code_ne_zero hcfg e1.pv e1.idx
  refine ⟨[0], [y, 0], by simp, by simp, by simp, by simpa using ⟨by decide, hy, by decide⟩, ?_, ?_⟩
  · simp only [List.length_append, encodeBuffer_bytes_length, List.length_cons, List.length_nil]
  · exact encodeBuffer_bytes_ne_of_odd cfg pv idx [0] [y, 0] (by simp) ⟨_, List.mem_cons_self, hcode⟩

/-- R177, decoding: the bytes before an even position hold the codes before it. -/
theorem decodeBuffer_split (cfg : Config) {bytes : List Byte} (pv : Int) (idx : StepIndex) {k n : Nat}
    (hk : 2 * k ≤ n) (hn : n ≤ 2 * bytes.length) :
    ∃ d d1 d2, decodeBuffer cfg bytes pv idx n = some d ∧ decodeBuffer cfg bytes pv idx (2 * k) = some d1 ∧
      decodeBuffer cfg (bytes.drop k) d1.pv d1.idx (n - 2 * k) = some d2 ∧
      d.samples = d1.samples ++ d2.samples ∧ d.pv = d2.pv ∧ d.idx = d2.idx := by
  have hdrop : n - 2 * k ≤ 2 * (bytes.drop k).length := by rw [List.length_drop]; omega
  have hcodes : (codesOfBytes bytes).take n =
      (codesOfBytes bytes).take (2 * k) ++ (codesOfBytes (bytes.drop k)).take (n - 2 * k) := by
    rw [codesOfBytes_drop, ← List.take_add, Nat.add_sub_cancel' hk]
  refine ⟨_, _, _, decodeBuffer_eq_some hn cfg pv idx, decodeBuffer_eq_some (hk.trans hn) cfg pv idx,
    decodeBuffer_eq_some hdrop cfg _ _, ?_⟩
  rw [hcodes, decodeCodes_append]
  exact ⟨rfl, rfl, rfl⟩

/-- Settles O49: the two calls have the codes of the one, and after an odd first part one pad nibble more between
them. -/
theorem streamingKeepsTheAdaptiveTrajectory : Obligations.StreamingKeepsTheAdaptiveTrajectory := by
  refine ⟨fun cfg xs ys pv idx => ?_, fun cfg pv idx hcfg _ => exists_odd_split_with_other_bytes hcfg pv idx,
    fun cfg bytes pv idx k n hk hn => decodeBuffer_split cfg pv idx hk hn⟩
  obtain ⟨hpv, hidx, hcodes⟩ := encode_append cfg pv idx xs ys
  refine ⟨⟨hpv.symm, hidx.symm⟩, hcodes, encodeBuffer_bytes_append_of_even cfg pv idx xs ys, fun hodd =>
    ⟨encodeBuffer_getLast?_of_odd cfg pv idx hodd, fun j c => nibble_places_of_odd cfg pv idx xs ys hodd,
      encodeBuffer_bytes_ne_of_odd cfg pv idx xs ys hodd, ?_, fun hys => ?_, fun hys => ?_⟩⟩ <;>
    simp only [encodeBuffer_bytes_length, List.length_append] <;> omega

end Sys2Proof.Machine
end

section
/-! Proofs of the statements of 43_buffer_functions_and_laws.md on command sequences: the expansions of ENCODE and
DECODE run the buffer functions, and commands of the two units may be interleaved. -/

namespace Sys2Proof.Machine

theorem execAll_append_of_next {is : List Instr} {s t : State} (h : execAll is s = .next t) (js : List Instr) :
    execAll (is ++ js) s = execAll js t := by
  induction is generalizing s with
  | nil => cases h; rfl
  | cons i is ih =>
    obtain ⟨u, -, hexec, -⟩ := everyInstructionCompletesWithOneResponse i s
    rw [List.cons_append, execAll_cons_of_next hexec]
    exact ih ((execAll_cons_of_next hexec is).symm.trans h)

/-! What the host collects (R172, R173). -/

theorem collectBytes_append (rs rs' : List Response) :
    collectBytes (rs ++ rs') = collectBytes rs ++ collectBytes rs' := by
  induction rs with
  | nil => rfl
  | cons r rs ih => simp only [List.cons_append, collectBytes, ih]; split <;> rfl

theorem collectSamples_append (rs rs' : List Response) :
    collectSamples (rs ++ rs') = collectSamples rs ++ collectSamples rs' := by
  induction rs with
  | nil => rfl
  | cons r rs ih => simp only [List.cons_append, collectSamples, ih]; split_ifs <;> rfl

@[simp] theorem collectBytes_nil : collectBytes [] = [] := rfl

@[simp] theorem collectBytes_respNone (rs : List Response) : collectBytes (respNone :: rs) = collectBytes rs := rfl

@[simp] theorem collectBytes_respOne (b : Byte) (rs : List Response) :
    collectBytes (respOne (zextByte b) :: rs) = b :: collectBytes rs :=
  congrArg (· :: collectBytes rs) (setWidth_zextByte b)

@[simp] theorem collectBytes_respTwo (d0 d1 : Field32) (rs : List Response) :
    collectBytes (respTwo d0 d1 :: rs) = collectBytes rs := rfl

/-! The expansion of ENCODE (R172). -/

/-- The code that waits for its partner, if one does (10_state.md R23, R24). -/
def EncUnit.pending (enc : EncUnit) : Option Code := if enc.phase then some enc.hold else none

theorem EncUnit.pending_of_phase {enc : EncUnit} (h : enc.phase = true) : enc.pending = some enc.hold := if_pos h

theorem EncUnit.pending_of_not_phase {enc : EncUnit} (h : enc.phase = false) : enc.pending = none := by
  simp [pending, h]

@[simp] theorem State.writePending_encPv (s : State) (phase : Bool) (hold : Code) :
    (s.writePending phase hold).encPv = s.encPv := rfl

@[simp] theorem State.respond_encPv (s : State) (r : Response) : (s.respond r).encPv = s.encPv := rfl

/-- The predicted value of a step is within the bounds, so the register holds it exactly. -/
@[simp] theorem State.writeEnc_encStep_encPv (s : State) (pv x : Int) (idx idx' : StepIndex) :
    (s.writeEnc (encStep device pv idx x).pv idx').encPv = (encStep device pv idx x).pv :=
  State.writeEnc_encPv (encStep_inRange pv idx x) s idx'

/-- `t` is `s` after a call of encode that answered `rs`: the bytes and the Codec State are those of `e`, no code is
pending, and the decoder is as it was. -/
def EncodesTo (s t : State) (rs : List Response) (e : EncodedBuffer) : Prop :=
  t.responses = s.responses ++ rs ∧ collectBytes rs = e.bytes ∧ t.encPv = e.pv ∧ t.enc.idx = e.idx ∧
    t.enc.phase = false ∧ t.enc.hold = 0 ∧ t.dec = s.dec

/-- A command before the rest of a call adds the byte that it answers, if it answers one. -/
theorem EncodesTo.cons {s u t : State} {rs : List Response} {e : EncodedBuffer} (h : EncodesTo u t rs e) {r : Response}
    (hresp : u.responses = s.responses ++ [r]) (hdec : u.dec = s.dec) :
    EncodesTo s t (r :: rs) { e with bytes := collectBytes [r] ++ e.bytes } := by
  obtain ⟨hrs, hbytes, hpv, hidx, hphase, hhold, hdec'⟩ := h
  exact ⟨by simp [hrs, hresp], by rw [← hbytes, ← collectBytes_append, List.singleton_append], hpv, hidx, hphase,
    hhold, hdec'.trans hdec⟩

/-- With no code pending, `ENC.SMP` holds its code and answers no byte (41_encoder.md R111). -/
theorem exec_encSmp_first {s : State} (h : s.enc.phase = false) (x : Int) : exec (.encSmp x) s =
    let r := encStep device s.encPv s.enc.idx x
    .next (((s.writeEnc r.pv r.idx).writePending true r.code).respond respNone) :=
  (exec_encSmp x s).trans (congrArg Host.Outcome.next (emitCode_first (s := s.writeEnc _ _) h _))

/-- With a code pending, `ENC.SMP` answers the pair (41_encoder.md R111). -/
theorem exec_encSmp_second {s : State} (h : s.enc.phase = true) (x : Int) : exec (.encSmp x) s =
    let r := encStep device s.encPv s.enc.idx x
    .next (((s.writeEnc r.pv r.idx).writePending false 0).respond
      (respOne (zextByte (packByte s.enc.hold r.code)))) :=
  (exec_encSmp x s).trans (congrArg Host.Outcome.next (emitCode_second (s := s.writeEnc _ _) h _))

/-- `ENC.END` ends the encode loop: a pending code is answered as a padded byte (41_encoder.md R112). -/
theorem exec_encEnd_encodesTo {s : State} (hs : s.enc.phase = false → s.enc.hold = 0) :
    ∃ t r, exec .encEnd s = .next t ∧ EncodesTo s t [r] (encodeFrom device s.enc.pending s.encPv s.enc.idx []) := by
  cases hphase : s.enc.phase with
  | false =>
    rw [exec_encEnd, flushCode_empty hphase, EncUnit.pending_of_not_phase hphase]
    exact ⟨_, _, rfl, rfl, rfl, rfl, rfl, hphase, hs hphase, rfl⟩
  | true =>
    rw [exec_encEnd, flushCode_pending hphase, EncUnit.pending_of_phase hphase]
    exact ⟨_, _, rfl, rfl, collectBytes_respOne _ [], rfl, rfl, rfl, rfl, rfl⟩

/-- `ENC.SMP` is one round of the encode loop, from whatever code is pending: the rest of the loop goes on from the new
registers, and the byte that the command answers, if it answers one, comes before the rest's. -/
theorem exec_encSmp_round (x : Int) (xs : List Int) (s : State) :
    ∃ u r, exec (.encSmp x) s = .next u ∧ u.responses = s.responses ++ [r] ∧ u.dec = s.dec ∧
      (u.enc.phase = false → u.enc.hold = 0) ∧
      let e := encodeFrom device u.enc.pending u.encPv u.enc.idx xs
      encodeFrom device s.enc.pending s.encPv s.enc.idx (x :: xs) =
        { e with bytes := collectBytes [r] ++ e.bytes } := by
  cases hphase : s.enc.phase with
  | false =>
    refine ⟨_, _, exec_encSmp_first hphase x, rfl, rfl, nofun, ?_⟩
    rw [EncUnit.pending_of_not_phase hphase]
    simp [encodeFrom, EncUnit.pending]
  | true =>
    refine ⟨_, _, exec_encSmp_second hphase x, rfl, rfl, fun _ => rfl, ?_⟩
    rw [EncUnit.pending_of_phase hphase]
    simp [encodeFrom, EncUnit.pending]

/-- The commands of a call do what the encode loop does, from whatever code is pending. -/
theorem execAll_expandEncode (xs : List Int) {s : State} (hs : s.enc.phase = false → s.enc.hold = 0) :
    ∃ t rs, execAll (expandEncode xs) s = .next t ∧ rs.length = xs.length + 1 ∧
      EncodesTo s t rs (encodeFrom device s.enc.pending s.encPv s.enc.idx xs) := by
  induction xs generalizing s with
  | nil =>
    obtain ⟨t, r, hexec, h⟩ := exec_encEnd_encodesTo hs
    exact ⟨t, [r], execAll_cons_of_next hexec [], rfl, h⟩
  | cons x xs ih =>
    obtain ⟨u, r, hexec, hresp, hdec, hu, hround⟩ := exec_encSmp_round x xs s
    obtain ⟨t, rs, hall, hlen, h⟩ := ih hu
    exact ⟨t, r :: rs, (execAll_cons_of_next hexec _).trans hall, congrArg (· + 1) hlen, hround ▸ h.cons hresp hdec⟩

/-- With no code pending the loop is that of `encode_buffer`. -/
theorem execAll_expandEncode_encodeBuffer (xs : List Int) {s : State} (hs : s.Inv) (hphase : s.enc.phase = false) :
    ∃ t rs, execAll (expandEncode xs) s = .next t ∧ rs.length = xs.length + 1 ∧
      EncodesTo s t rs (encodeBuffer device xs s.encPv s.enc.idx) := by
  obtain ⟨-, -, hhold⟩ := s.inv_iff.1 hs
  rw [encodeBuffer, ← EncUnit.pending_of_not_phase hphase]
  exact execAll_expandEncode xs hhold

/-- Settles O45: the expansion runs `encode_buffer`. `ENC.LDST` before it and `ENC.RDST` after it answer no byte. -/
theorem encodeExpansionIsEncodeBuffer : Obligations.EncodeExpansionIsEncodeBuffer := by
  refine ⟨fun xs s hs hphase => ?_, fun xs pv idx s hs hphase => ?_⟩
  · obtain ⟨t, rs, hexec, hlen, hresp, h⟩ := execAll_expandEncode_encodeBuffer xs hs hphase
    exact ⟨t, rs, hexec, hresp, hlen, h⟩
  · let u := (s.writeEnc (clamp pv device.pvMin device.pvMax) (indexOperand idx)).respond respNone
    have hload : exec (.encLdst pv idx) s = .next u := exec_encLdst pv idx s
    have hloaded : u.encPv = clamp pv device.pvMin device.pvMax := State.writeEnc_encPv (clamp_inRange pv) s _
    obtain ⟨t, rs, hexec, -, hresp, hbytes, hpv, hidx, -⟩ :=
      execAll_expandEncode_encodeBuffer xs (exec_inv hs hload) hphase
    rw [hloaded] at hbytes hpv hidx
    let answer := respTwo t.enc.pv (zextIndex t.enc.idx)
    refine ⟨t.respond answer, respNone :: (rs ++ [answer]), ?_, ?_, ?_, ?_⟩
    · rw [execAll_cons_of_next hload, execAll_append_of_next hexec, execAll_cons_of_next (exec_encRdst t)]
      rfl
    · simp [hresp, u]
    · rw [collectBytes_respNone, collectBytes_append, hbytes, collectBytes_respTwo]
      exact List.append_nil _
    · rw [← List.cons_append, List.getLast?_concat]
      have hstored := (fromS32_toS32 t.enc.pv).symm.trans (congrArg fromS32 hpv)
      exact congrArg some (congrArg₂ respTwo hstored (congrArg zextIndex hidx))

/-! The expansion of DECODE (R173). -/

/-- From every state, `is` completes and does to the decoder what decoding `cs` does; its responses carry the samples,
and the encoder is as it was. -/
def RunDecodes (is : List Instr) (cs : List Code) : Prop :=
  ∀ s : State, ∃ t rs, execAll is s = .next t ∧ t.responses = s.responses ++ rs ∧
    let d := decodeCodes device s.decPv s.dec.idx cs
    collectSamples rs = d.samples ∧ t.decPv = d.pv ∧ t.dec.idx = d.idx ∧ t.enc = s.enc

theorem RunDecodes.nil : RunDecodes [] [] := fun s => ⟨s, [], rfl, (List.append_nil _).symm, rfl, rfl, rfl, rfl⟩

theorem RunDecodes.append {is js : List Instr} {cs ds : List Code} (h : RunDecodes is cs) (h' : RunDecodes js ds) :
    RunDecodes (is ++ js) (cs ++ ds) := by
  intro s
  obtain ⟨t, rs, hexec, hresp, hsamples, hpv, hidx, henc⟩ := h s
  obtain ⟨t', rs', hexec', hresp', hsamples', hpv', hidx', henc'⟩ := h' t
  rw [hpv, hidx] at hsamples' hpv' hidx'
  refine ⟨t', rs ++ rs', (execAll_append_of_next hexec js).trans hexec', by simp [hresp', hresp], ?_⟩
  rw [decodeCodes_append, collectSamples_append, hsamples, hsamples']
  exact ⟨rfl, hpv', hidx', henc'.trans henc⟩

/-- `DEC.PAIR` decodes the two codes of its byte (42_decoder.md R131). -/
theorem runDecodes_decPair (b : Nat) : RunDecodes [.decPair b] [highCode b, lowCode b] := by
  intro s
  obtain ⟨-, hpair⟩ := decPairDecodesHighThenLow
  obtain ⟨t, d0, d1, hexec, hpv, hidx, hresp, hd0, hd1, henc, -⟩ := hpair b s
  refine ⟨t, _, execAll_cons_of_next hexec [], hresp, ?_, hpv, hidx, henc⟩
  simp [collectSamples, hd0, hd1, decodeCodes, highCode, lowCode]

/-- `DEC.HIGH` decodes the high code of its byte (42_decoder.md R132). -/
theorem runDecodes_decHigh (b : Nat) : RunDecodes [.decHigh b] [highCode b] := by
  intro s
  obtain ⟨-, hhigh, -⟩ := decHighDecodesOnlyTheHighCode
  obtain ⟨t, d0, hexec, hpv, hidx, hresp, hd0, henc, -⟩ := hhigh b s
  refine ⟨t, _, execAll_cons_of_next hexec [], hresp, ?_, hpv, hidx, henc⟩
  simp [collectSamples, hd0, decodeCodes, highCode]

theorem runDecodes_expandDecodeAll (bytes : List Byte) : RunDecodes (expandDecodeAll bytes) (codesOfBytes bytes) := by
  induction bytes with
  | nil => exact .nil
  | cons b bytes ih => exact (runDecodes_decPair b.toNat).append ih

theorem runDecodes_map_decHigh (bytes : List Byte) :
    RunDecodes (bytes.map fun b => .decHigh b.toNat) (bytes.map fun b => highCode b.toNat) := by
  induction bytes with
  | nil => exact .nil
  | cons b bytes ih => exact (runDecodes_decHigh b.toNat).append ih

/-- The first `n` codes are those of the first `n / 2` bytes and, for an odd `n`, the high code of the next. -/
theorem codesOfBytes_take_codes (n : Nat) (bytes : List Byte) : (codesOfBytes bytes).take n =
    codesOfBytes (bytes.take (n / 2)) ++ ((bytes.drop (n / 2)).take (n % 2)).map fun b => highCode b.toNat := by
  have htail (bs : List Byte) : (codesOfBytes bs).take (n % 2) = (bs.take (n % 2)).map fun b => highCode b.toNat := by
    obtain h | h := Nat.mod_two_eq_zero_or_one n <;> cases bs <;> simp [h, codesOfBytes]
  rw [← htail, codesOfBytes_take, codesOfBytes_drop, ← List.take_add, Nat.div_add_mod]

theorem expandDecode_eq_some {n : Nat} {bytes : List Byte} (h : n ≤ 2 * bytes.length) : expandDecode n bytes =
    some (expandDecodeAll (bytes.take (n / 2)) ++
      ((bytes.drop (n / 2)).take (n % 2)).map fun b => .decHigh b.toNat) := if_pos h

theorem expandDecode_eq_none {n : Nat} {bytes : List Byte} (h : 2 * bytes.length < n) :
    expandDecode n bytes = none := if_neg (by omega)

/-- Settles O46: the commands of the expansion decode, one after the other, the first `n` codes of the bytes. -/
theorem decodeExpansionIsDecodeBuffer : Obligations.DecodeExpansionIsDecodeBuffer := by
  refine ⟨fun n bytes s hn => ?_, fun n bytes => expandDecode_eq_none, fun bytes => ?_, fun bytes => ?_⟩
  · have hruns := (runDecodes_expandDecodeAll (bytes.take (n / 2))).append
      (runDecodes_map_decHigh ((bytes.drop (n / 2)).take (n % 2)))
    rw [← codesOfBytes_take_codes] at hruns
    obtain ⟨t, rs, hexec, hresp, hdecodes⟩ := hruns s
    exact ⟨_, _, t, rs, expandDecode_eq_some hn, decodeBuffer_eq_some hn device _ _, hexec, hresp, hdecodes⟩
  · simp [expandDecode_eq_some, expandDecodeAll]
  · simp [expandDecode_eq_some]

/-! Interleaving (R184). -/

/-- The instructions of `own` act on what `view` shows of the state, the others leave it alone: an `own` instruction
answers and changes the view the same way from two states with one view, and leaves the `rest` as it was. -/
structure Isolated {α β : Type} (own : Instr → Bool) (view : State → α) (rest : State → β) : Prop where
  own_exec : ∀ i, own i = true → ∀ s s' : State, view s = view s' → ∃ t t' r, exec i s = .next t ∧
    exec i s' = .next t' ∧ t.responses = s.responses ++ [r] ∧ t'.responses = s'.responses ++ [r] ∧
    view t = view t' ∧ rest t' = rest s'
  other_exec : ∀ i, own i = false → ∀ s : State, ∃ t r, exec i s = .next t ∧
    t.responses = s.responses ++ [r] ∧ view t = view s

/-- Leaving out the instructions that are not `own` changes neither the view nor the responses of the `own` ones. -/
theorem Isolated.execAll_filter {α β : Type} {own : Instr → Bool} {view : State → α} {rest : State → β}
    (h : Isolated own view rest) (is : List Instr) {s s' : State} (hview : view s = view s') :
    ∃ t t' rs rs', execAll is s = .next t ∧ execAll (is.filter own) s' = .next t' ∧
      t.responses = s.responses ++ rs ∧ t'.responses = s'.responses ++ rs' ∧ rs.length = is.length ∧
      view t = view t' ∧ rest t' = rest s' ∧ ((is.zip rs).filter (fun p => own p.1)).map Prod.snd = rs' := by
  induction is generalizing s s' with
  | nil => exact ⟨s, s', [], [], rfl, rfl, by simp, by simp, rfl, hview, rfl, rfl⟩
  | cons i is ih =>
    cases hown : own i with
    | true =>
      obtain ⟨u, u', r, hexec, hexec', hresp, hresp', hview', hrest⟩ := h.own_exec i hown s s' hview
      obtain ⟨t, t', rs, rs', hall, hall', hrs, hrs', hlen, hfinal, hrest', hzip⟩ := ih hview'
      refine ⟨t, t', r :: rs, r :: rs', (execAll_cons_of_next hexec is).trans hall, ?_, by simp [hrs, hresp],
        by simp [hrs', hresp'], congrArg (· + 1) hlen, hfinal, hrest'.trans hrest, by simp [hown, hzip]⟩
      rw [List.filter_cons_of_pos hown]
      exact (execAll_cons_of_next hexec' _).trans hall'
    | false =>
      obtain ⟨u, r, hexec, hresp, hview'⟩ := h.other_exec i hown s
      obtain ⟨t, t', rs, rs', hall, hall', hrs, hrs', hlen, hfinal, hrest, hzip⟩ := ih (hview'.trans hview)
      refine ⟨t, t', r :: rs, rs', (execAll_cons_of_next hexec is).trans hall, ?_, by simp [hrs, hresp], hrs',
        congrArg (· + 1) hlen, hfinal, hrest, by simp [hown, hzip]⟩
      rwa [List.filter_cons_of_neg (by simp [hown])]

theorem encoder_isolated :
    Isolated (fun i => decide (unitOf i = .encoder)) (fun s => s.enc) (fun s => s.dec) where
  own_exec i hown s s' hview := by
    obtain ⟨enc', r, hexec⟩ := exec_actsOnEnc (of_decide_eq_true hown) s.enc
    exact ⟨_, _, r, hexec s rfl, hexec s' hview.symm, rfl, rfl, rfl, rfl⟩
  other_exec i hown s := by
    obtain ⟨t, r, hexec, -, hresp, -⟩ := everyInstructionCompletesWithOneResponse i s
    exact ⟨t, r, hexec, hresp, exec_enc_of_ne_encoder (of_decide_eq_false hown) hexec⟩

theorem decoder_isolated :
    Isolated (fun i => decide (unitOf i = .decoder)) (fun s => s.dec) (fun s => s.enc) where
  own_exec i hown s s' hview := by
    obtain ⟨dec', r, hexec⟩ := exec_actsOnDec (of_decide_eq_true hown) s.dec
    exact ⟨_, _, r, hexec s rfl, hexec s' hview.symm, rfl, rfl, rfl, rfl⟩
  other_exec i hown s := by
    obtain ⟨t, r, hexec, -, hresp, -⟩ := everyInstructionCompletesWithOneResponse i s
    exact ⟨t, r, hexec, hresp, exec_dec_of_ne_decoder (of_decide_eq_false hown) hexec⟩

/-- Settles O42: each unit is isolated from the instructions of all others. -/
theorem interleavingDoesNotMatter : Obligations.InterleavingDoesNotMatter := by
  intro is s
  obtain ⟨t, te, rs, re, hall, hallEnc, hrs, hre, hlen, henc, hdec, hzipEnc⟩ :=
    encoder_isolated.execAll_filter is (s := s) rfl
  obtain ⟨t', td, rs', rd, hall', hallDec, hrs', hrd, -, hdec', henc', hzipDec⟩ :=
    decoder_isolated.execAll_filter is (s := s) rfl
  cases hall.symm.trans hall'
  cases List.append_cancel_left (hrs.symm.trans hrs')
  exact ⟨t, te, td, rs, re, rd, hall, hallEnc, hallDec, hrs, hre, hrd, hlen, henc, hdec', hdec, henc', hzipEnc,
    hzipDec⟩

end Sys2Proof.Machine
end

section
/-! Proofs of the statements of 60_exceptions.md: a step with nothing presented. -/

namespace Sys2Proof.Machine

/-- The rule of `step` on an empty command port, beside `step_of_present`: the block is idle and keeps its registers
(60_exceptions.md R213). -/
theorem step_of_input_eq_nil {s : State} (h : s.input = []) : step s = .next s := by
  simp [step, h]

/-- Settles O3: it is the rule of `step` on an empty command port, from every state. -/
theorem idleStepKeepsTheState : Obligations.IdleStepKeepsTheState :=
  fun _ h => step_of_input_eq_nil h

end Sys2Proof.Machine
end

section
/-! Proofs of the statements of 70_reset_and_hazards.md: the reset event, and the two hazards, of a load with a nibble
pending and of a pad nibble that is decoded. -/

namespace Sys2Proof.Machine

/-! The pad nibble (70_reset_and_hazards.md R225). -/

/-- `DEC.PAIR` writes the registers that decoding its two codes one after the other does, and answers both samples at
once. -/
theorem exec_decPair_packByte (first second : Code) (s : State) :
    exec (.decPair (packByte first second).toNat) s =
      let t := decodeOne device first s
      let u := decodeOne device second t
      .next { u with responses := s.responses ++ [respTwo t.dec.pv u.dec.pv] } := by
  simp only [exec_decPair, highCode_packByte, lowCode_packByte, ← decodeOne_decPv]
  rfl

/-- The index falls by 1 unless it is 0: it is below the upper end of its range already. -/
theorem clamp_index_sub_one (i : StepIndex) : clamp (i.val + -1) 0 88 = (i.val - 1 : Nat) := by
  have := i.isLt
  rw [clamp_eq_max_min (by decide)]; omega

/-- Settles O55: `DEC.PAIR` decodes code 0 from where `DEC.HIGH` ends, so it goes on by the row of code 0 (O18). -/
theorem padNibbleMovesTheDecoder : Obligations.PadNibbleMovesTheDecoder := by
  intro c s
  obtain ⟨hrow, -⟩ := codesZeroToSevenMoveUp
  obtain ⟨hpv, hidx, henc, -⟩ := codeMoved_decodeOne hrow (decodeOne device c s)
  have hhigh := exec_decHigh (packByte c 0).toNat s
  rw [highCode_packByte] at hhigh
  exact ⟨_, _, _, _, hhigh, exec_decPair_packByte c 0 s, rfl, rfl, rfl, hpv,
    Int.ofNat_inj.1 (hidx.trans (clamp_index_sub_one _)), rfl, henc⟩

/-! A load with a nibble pending (70_reset_and_hazards.md R224). -/

/-- Settles O56: the load keeps the pending code, and the next sample is encoded from the loaded registers and paired
with it. -/
theorem loadWhilePendingMixesStreams : Obligations.LoadWhilePendingMixesStreams := by
  intro pv x idx s hphase code
  have hloaded := State.writeEnc_encPv (clamp_inRange pv) s (indexOperand idx)
  have hpair := exec_encSmp_second (s := (s.writeEnc (clamp pv device.pvMin device.pvMax) (indexOperand idx)).respond
    respNone) hphase x
  refine ⟨_, _, respNone, _, exec_encLdst pv idx s, hpair, hphase, rfl, List.append_assoc .., ?_, rfl, rfl⟩
  rw [State.respond_encPv, hloaded, zextByte_packByte]
  rfl

/-! The reset event (70_reset_and_hazards.md R220). -/

/-- The rule of `step` on a reset item, beside `step_of_present`. -/
theorem step_of_reset {s : State} {rest : List HostInput} (h : s.input = .reset :: rest) :
    step s = .next (resetEvent { s with input := rest }) := by
  simp [step, h]

/-- Settles O2: the step is the reset event, whose registers compute to 0 from every state. -/
theorem resetEventClearsTheSixRegisters : Obligations.ResetEventClearsTheSixRegisters :=
  fun _ _ h => ⟨_, step_of_reset h, rfl, rfl, rfl, rfl, rfl, rfl, rfl, rfl⟩

end Sys2Proof.Machine
end
